-- ==== Sys2Proof/Word.lean ====
section
/-! DEFINITION. The word types of the encoder (00_scope.md rule R7: the widths). -/

namespace Sys2Proof

/-- The produced instruction word, `WORD_W` = 32 bits (R7, R60). -/
abbrev Word := BitVec 32
/-- A register index, `REG_W` = 5 bits (R7, R20). -/
abbrev Reg := BitVec 5
/-- `OPCODE_W` = 7 bits (R7). -/
abbrev Opcode := BitVec 7
/-- `FUNCT3_W` = 3 bits (R7). -/
abbrev Funct3 := BitVec 3
/-- `FUNCT7_W` = 7 bits (R7). -/
abbrev Funct7 := BitVec 7
/-- The raw immediate on the hardware port, `IMM_IN_W` = 32 bits, signed (R7, R62). -/
abbrev ImmPort := BitVec 32
abbrev Byte := BitVec 8
/-- Text: source lines, mnemonics, register names, label names. A list of characters, so that a state is plain data
the kernel computes on. -/
abbrev Text := List Char
/-- The bits of one command at the core's port: the nine fields of R62, 3+7+3+7+5+5+5+32+2 bits (log 3). -/
abbrev PortBits := BitVec 69

end Sys2Proof
end

