-- ==== Sys2Proof/Config.lean ====
section
/-! DEFINITION. What an implementation fixes (00_scope.md rule R7) and the free values. -/

namespace Sys2Proof

/-- The six format classes, in DOC's enumeration order (R63). -/
inductive Format where
  | R | I | S | SB | U | UJ
  deriving DecidableEq, Repr

/-- The per-mnemonic constants. Which of them an entry carries is fixed by its class (R94): a closed sum. -/
inductive FixedFields where
  | r (opcode : Opcode) (funct3 : Funct3) (funct7 : Funct7)
  | i (opcode : Opcode) (funct3 : Funct3)
  | s (opcode : Opcode) (funct3 : Funct3)
  | sb (opcode : Opcode) (funct3 : Funct3)
  | u (opcode : Opcode)
  | uj (opcode : Opcode)
  deriving DecidableEq, Repr

/-- The format class of a Catalog entry (R94). -/
def FixedFields.format : FixedFields → Format
  | .r .. => .R
  | .i .. => .I
  | .s .. => .S
  | .sb .. => .SB
  | .u .. => .U
  | .uj .. => .UJ

/-- The per-command status codes (R210). -/
inductive Status where
  | ok | unclassified | badRegister | badFormat | notWired | ioUnavailable
  deriving DecidableEq, Repr

/-- `WORD_BYTE_ORDER` (R47, D12). -/
inductive ByteOrder where
  | little | big
  deriving DecidableEq, Repr

/-- The open parameters of R7: constant through a run, never written by a step (R27, log 2). -/
structure Params where
  /-- `CATALOG` (R27, R98): mnemonic to class and fixed fields; a lookup takes the first entry of a name. -/
  catalog : List (Text × FixedFields)
  /-- `WIRED` (R168): the classes the Line Driver dispatches. -/
  wired : List Format
  /-- `ADDR_W` (R22, D9): `none` is the unbounded counter. -/
  addrW : Option Nat
  /-- `WORD_BYTE_ORDER` (R47). -/
  byteOrder : ByteOrder
  deriving DecidableEq, Repr

/-- `ADDR_STEP` (R7). -/
def addrStep : Nat := 4

/-- `ADDR_RESET` (R7). -/
def addrReset : Nat := 0

/-- FREE VALUE (U5, log 11): which of its definitions a label name that is defined more than once stands for, as an
index into the addresses of its definitions. No body: nothing can be proved of it. -/
opaque Config.pickDefinition : Text → List Nat → Nat

/-- FREE VALUES (U16, R194, N9, log 20): the parts of a printed record that DOC does not settle. -/
opaque Config.addressLead : Text
opaque Config.gapAfterAddress : Text
opaque Config.gapBeforeComma : Text
opaque Config.gapAfterComma : Text
opaque Config.lineEnd : Text

end Sys2Proof
end

