-- ==== Sys2Proof/Syntax.lean ====
section
/-! DEFINITION. Commands, source lines and the instructions of spec/opcode_table.json. -/

namespace Sys2Proof

/-- The mnemonics of the 34 `catalog` rows of spec/opcode_table.json (R99). -/
inductive Mnemonic where
  | add | sub | sll | slt | sltu | xor | srl | sra | or | and
  | addi | slti | sltiu | xori | ori | andi | lb | lh | lw | lbu | lhu | jalr
  | sb | sh | sw
  | beq | bne | blt | bge | bltu | bgeu
  | lui | auipc
  | jal
  deriving DecidableEq, Repr

/-- One command at the core's port: every field, used or not (R62). -/
structure Command where
  fmt : BitVec 3
  opcode : Opcode
  funct3 : Funct3
  funct7 : Funct7
  rd : Reg
  rs1 : Reg
  rs2 : Reg
  imm : ImmPort
  pre : BitVec 2
  deriving DecidableEq, Repr

/-- One unit of input: a source line for the block's own upstream (R76), or a command given at the core's port with its
source line, where the host is the upstream (R5, R62). -/
inductive Item where
  | text (line : Text)
  | port (bits : PortBits) (line : Text)
  deriving DecidableEq, Repr

/-- The "original source line" of an item (R24, R192). -/
def Item.line : Item → Text
  | .text l => l
  | .port _ l => l

/-- The operands a class takes, resolved (R77). An immediate is the raw, signed integer of the line (R11). -/
inductive Operands where
  | r (rd rs1 rs2 : Reg)
  | i (rd rs1 : Reg) (imm : Int)
  | s (rs1 rs2 : Reg) (imm : Int)
  | sb (rs1 rs2 : Reg) (imm : Int)
  | u (rd : Reg) (imm : Int)
  | uj (rd : Reg) (imm : Int)
  deriving DecidableEq, Repr

/-- The class whose operands these are (R13: the class determines operand arity). -/
def Operands.format : Operands → Format
  | .r .. => .R
  | .i .. => .I
  | .s .. => .S
  | .sb .. => .SB
  | .u .. => .U
  | .uj .. => .UJ

/-- The instructions: one constructor per row of spec/opcode_table.json. The `pack` constructors are commands at the
core's port (R62, R63), `reservedFmt6` and `reservedFmt7` the reserved codes (R166), the others source lines of the
reference Catalog's mnemonics, classified and resolved (R99, R77). -/
inductive Instr where
  | packR (opcode : Opcode) (funct3 : Funct3) (funct7 : Funct7) (rd rs1 rs2 : Reg)
  | packI (opcode : Opcode) (funct3 : Funct3) (rd rs1 : Reg) (imm : Int)
  | packS (opcode : Opcode) (funct3 : Funct3) (rs1 rs2 : Reg) (imm : Int)
  | packSB (opcode : Opcode) (funct3 : Funct3) (rs1 rs2 : Reg) (imm : Int)
  | packU (opcode : Opcode) (rd : Reg) (imm : Int)
  | packUJ (opcode : Opcode) (rd : Reg) (imm : Int)
  | reservedFmt6
  | reservedFmt7
  | add (rd rs1 rs2 : Reg)
  | sub (rd rs1 rs2 : Reg)
  | sll (rd rs1 rs2 : Reg)
  | slt (rd rs1 rs2 : Reg)
  | sltu (rd rs1 rs2 : Reg)
  | xor (rd rs1 rs2 : Reg)
  | srl (rd rs1 rs2 : Reg)
  | sra (rd rs1 rs2 : Reg)
  | or (rd rs1 rs2 : Reg)
  | and (rd rs1 rs2 : Reg)
  | addi (rd rs1 : Reg) (imm : Int)
  | slti (rd rs1 : Reg) (imm : Int)
  | sltiu (rd rs1 : Reg) (imm : Int)
  | xori (rd rs1 : Reg) (imm : Int)
  | ori (rd rs1 : Reg) (imm : Int)
  | andi (rd rs1 : Reg) (imm : Int)
  | lb (rd rs1 : Reg) (imm : Int)
  | lh (rd rs1 : Reg) (imm : Int)
  | lw (rd rs1 : Reg) (imm : Int)
  | lbu (rd rs1 : Reg) (imm : Int)
  | lhu (rd rs1 : Reg) (imm : Int)
  | jalr (rd rs1 : Reg) (imm : Int)
  | sb (rs2 rs1 : Reg) (imm : Int)
  | sh (rs2 rs1 : Reg) (imm : Int)
  | sw (rs2 rs1 : Reg) (imm : Int)
  | beq (rs1 rs2 : Reg) (imm : Int)
  | bne (rs1 rs2 : Reg) (imm : Int)
  | blt (rs1 rs2 : Reg) (imm : Int)
  | bge (rs1 rs2 : Reg) (imm : Int)
  | bltu (rs1 rs2 : Reg) (imm : Int)
  | bgeu (rs1 rs2 : Reg) (imm : Int)
  | lui (rd : Reg) (imm : Int)
  | auipc (rd : Reg) (imm : Int)
  | jal (rd : Reg) (imm : Int)
  deriving DecidableEq, Repr

/-- Why a line is outside the input contract and is refused (U6, U7). -/
inductive Reject where
  /-- A line without a token (U6). Safe: the model stops where DOC says nothing. -/
  | blankLine
  /-- The first token, no key of the Catalog, begins a comment (U6, R79, log 7). Safe. -/
  | comment
  /-- The first token, no key of the Catalog, begins a directive (U6, R79, log 7). Safe. -/
  | directive
  /-- The first token, no key of the Catalog, is a label with an instruction behind it (U6, C2, log 7). Safe. -/
  | labelWithInstruction
  /-- Missing or extra operands for the class (U6). Safe. -/
  | operandCount
  /-- An immediate operand that is not a decimal integer (U7, R80). Safe. -/
  | immediateNotInteger
  deriving DecidableEq, Repr

/-- What the decoder makes of one item: an instruction; a command that ends with a status of its own before any packer is
selected (R164, R212, R213, R218); or a line outside the input contract. -/
inductive Decoded where
  | instr (i : Instr)
  | fails (e : Status)
  | rejected (r : Reject)
  deriving DecidableEq, Repr

end Sys2Proof
end

