-- ==== Sys2Proof/Machine/Fields.lean ====
section
/-! DEFINITION. The Field Encoder (41_field_encoder.md) and the bit-field helpers of 00_scope.md section 4. -/

namespace Sys2Proof.Machine

/-- `TOBITS` (R110): the `width`-bit pattern of `value mod 2^width`. Width 0 and widths above 32 are
outside the contract (R111, U8): that the `mod` form stands there too is DESIGN CHOICE, log 28; no packer uses them. -/
def toBits (value : Int) (width : Nat) : BitVec width :=
  BitVec.ofNat width (value % 2 ^ width).toNat

/-- `signed_n` (R11). -/
def signed {n : Nat} (b : BitVec n) : Int :=
  if b.getLsbD (n - 1) then (b.toNat : Int) - 2 ^ n else b.toNat

/-- The 3-bit code of a format class (R63, D2). -/
def fmtCode : Format → BitVec 3
  | .R => 0
  | .I => 1
  | .S => 2
  | .SB => 3
  | .U => 4
  | .UJ => 5

/-- The class of a 3-bit code; codes 6 and 7 are reserved (R63). -/
def fmtClass (c : BitVec 3) : Option Format :=
  match c.toNat with
  | 0 => some .R
  | 1 => some .I
  | 2 => some .S
  | 3 => some .SB
  | 4 => some .U
  | 5 => some .UJ
  | _ => none

/-- The effective immediate width of a class (R7, R112; U: D6). -/
def immWidth : Format → Nat
  | .R => 0
  | .I => 12
  | .S => 12
  | .SB => 13
  | .U => 20
  | .UJ => 21

/-- The immediate a decoder recovers from a word, as a signed integer (R72). The U row is the 20-bit field read as
unsigned, the raw immediate's own range (R72: "U: 0 to 1048575 for the field read as unsigned"). -/
def recoveredImm : Format → Word → Int
  | .R, _ => 0
  | .I, w => (w.extractLsb 31 20).toInt
  | .S, w => (w.extractLsb 31 25 ++ w.extractLsb 11 7).toInt
  | .SB, w =>
    (w.extractLsb 31 31 ++ w.extractLsb 7 7 ++ w.extractLsb 30 25 ++ w.extractLsb 11 8 ++ 0#1).toInt
  | .U, w => (w.extractLsb 31 12).toNat
  | .UJ, w =>
    (w.extractLsb 31 31 ++ w.extractLsb 19 12 ++ w.extractLsb 20 20 ++ w.extractLsb 30 21 ++ 0#1).toInt

/-- The upper immediate of a U word, as a 32-bit pattern (R72). -/
def upperImm (w : Word) : Word := w.extractLsb 31 12 ++ 0#12

/-- The four bytes of a word, lowest address first (R47). -/
def wordBytes : ByteOrder → Word → List Byte
  | .little, w => [w.extractLsb 7 0, w.extractLsb 15 8, w.extractLsb 23 16, w.extractLsb 31 24]
  | .big, w => [w.extractLsb 31 24, w.extractLsb 23 16, w.extractLsb 15 8, w.extractLsb 7 0]

end Sys2Proof.Machine
end

