-- ==== Sys2Proof/Machine/Packers.lean ====
section
/-! DEFINITION. The six format packers (42_format_packers.md). `++` is the spec's concatenation, left operand most
significant (R10). -/

namespace Sys2Proof.Machine

/-- `PACK.R` (R130). -/
def packR (opcode : Opcode) (funct3 : Funct3) (funct7 : Funct7) (rd rs1 rs2 : Reg) : Word :=
  funct7 ++ rs2 ++ rs1 ++ funct3 ++ rd ++ opcode

/-- `PACK.I` (R138). -/
def packI (opcode : Opcode) (funct3 : Funct3) (rd rs1 : Reg) (imm : Int) : Word :=
  let t := toBits imm 12
  t.extractLsb 11 0 ++ rs1 ++ funct3 ++ rd ++ opcode

/-- `PACK.S` (R142). -/
def packS (opcode : Opcode) (funct3 : Funct3) (rs1 rs2 : Reg) (imm : Int) : Word :=
  let t := toBits imm 12
  t.extractLsb 11 5 ++ rs2 ++ rs1 ++ funct3 ++ t.extractLsb 4 0 ++ opcode

/-- `PACK.SB` (R146): bit 0 of the offset is never read. -/
def packSB (opcode : Opcode) (funct3 : Funct3) (rs1 rs2 : Reg) (imm : Int) : Word :=
  let t := toBits imm 13
  t.extractLsb 12 12 ++ t.extractLsb 10 5 ++ rs2 ++ rs1 ++ funct3 ++ t.extractLsb 4 1 ++
    t.extractLsb 11 11 ++ opcode

/-- `PACK.U` (R150, D6, log 15). -/
def packU (opcode : Opcode) (rd : Reg) (imm : Int) : Word :=
  let t := toBits imm 20
  t.extractLsb 19 0 ++ rd ++ opcode

/-- `PACK.UJ` (R154): bit 0 of the offset is never read. -/
def packUJ (opcode : Opcode) (rd : Reg) (imm : Int) : Word :=
  let t := toBits imm 21
  t.extractLsb 20 20 ++ t.extractLsb 10 1 ++ t.extractLsb 11 11 ++ t.extractLsb 19 12 ++ rd ++ opcode

end Sys2Proof.Machine
end

