-- ==== Sys2Proof/Machine/Mux.lean ====
section
/-! DEFINITION. The format multiplexer `ENCODE` (43_format_mux.md). -/

namespace Sys2Proof.Machine

/-- What `ENCODE` answers: the word, with status `OK`, or a status other than `OK` and no word (R160). -/
inductive Result where
  | word (w : Word)
  | raised (e : Status)
  deriving DecidableEq, Repr

/-- The packer of a class, applied to the fields of a command it uses (R160, R162). The raw immediate is the signed
reading of the port (R11). -/
def packWith (f : Format) (c : Command) : Word :=
  match f with
  | .R => packR c.opcode c.funct3 c.funct7 c.rd c.rs1 c.rs2
  | .I => packI c.opcode c.funct3 c.rd c.rs1 c.imm.toInt
  | .S => packS c.opcode c.funct3 c.rs1 c.rs2 c.imm.toInt
  | .SB => packSB c.opcode c.funct3 c.rs1 c.rs2 c.imm.toInt
  | .U => packU c.opcode c.rd c.imm.toInt
  | .UJ => packUJ c.opcode c.rd c.imm.toInt

/-- `ENCODE` (R160), with the parameter `WIRED` (R168). -/
def encodeMux (wired : List Format) (c : Command) : Result :=
  if c.pre = 1#2 then .raised .unclassified
  else if c.pre = 2#2 then .raised .badRegister
  else if c.pre = 3#2 then .raised .badFormat
  else
    match fmtClass c.fmt with
    | none => .raised .badFormat
    | some f => if f ∈ wired then .word (packWith f c) else .raised .notWired

/-- A command with no field set: the value an unused port holds in a command the block forms itself (log 18). -/
def blankCommand : Command :=
  { fmt := 0, opcode := 0, funct3 := 0, funct7 := 0, rd := 0, rs1 := 0, rs2 := 0, imm := 0, pre := 0 }

/-- The command of an R instruction (R62: the fields R uses). -/
def commandR (opcode : Opcode) (funct3 : Funct3) (funct7 : Funct7) (rd rs1 rs2 : Reg) : Command :=
  { blankCommand with
    fmt := fmtCode .R, opcode := opcode, funct3 := funct3, funct7 := funct7, rd := rd, rs1 := rs1, rs2 := rs2 }

/-- The command of an I instruction. The port holds the low 32 bits of the raw immediate (R62, log 10). -/
def commandI (opcode : Opcode) (funct3 : Funct3) (rd rs1 : Reg) (imm : Int) : Command :=
  { blankCommand with
    fmt := fmtCode .I, opcode := opcode, funct3 := funct3, rd := rd, rs1 := rs1, imm := toBits imm 32 }

/-- The command of an S instruction. -/
def commandS (opcode : Opcode) (funct3 : Funct3) (rs1 rs2 : Reg) (imm : Int) : Command :=
  { blankCommand with
    fmt := fmtCode .S, opcode := opcode, funct3 := funct3, rs1 := rs1, rs2 := rs2, imm := toBits imm 32 }

/-- The command of an SB instruction. -/
def commandSB (opcode : Opcode) (funct3 : Funct3) (rs1 rs2 : Reg) (imm : Int) : Command :=
  { blankCommand with
    fmt := fmtCode .SB, opcode := opcode, funct3 := funct3, rs1 := rs1, rs2 := rs2, imm := toBits imm 32 }

/-- The command of a U instruction. -/
def commandU (opcode : Opcode) (rd : Reg) (imm : Int) : Command :=
  { blankCommand with fmt := fmtCode .U, opcode := opcode, rd := rd, imm := toBits imm 32 }

/-- The command of a UJ instruction. -/
def commandUJ (opcode : Opcode) (rd : Reg) (imm : Int) : Command :=
  { blankCommand with fmt := fmtCode .UJ, opcode := opcode, rd := rd, imm := toBits imm 32 }

/-- A command with a reserved format code (R166). -/
def commandReserved (code : BitVec 3) : Command := { blankCommand with fmt := code }

end Sys2Proof.Machine
end

