-- ==== Sys2Proof/Machine/Text.lean ====
section
/-! DEFINITION. The text of a source line: tokens, separators, decimal integers, names (30_encoding.md rules R76 to R80). -/

namespace Sys2Proof.Machine

/-- White space between tokens (R76; which characters, DESIGN CHOICE, log 7). -/
def isSpace (c : Char) : Bool := c = ' ' || c = '\t' || c = '\r' || c = '\n'

/-- `cur` is the token read so far, last character first. -/
def tokensFrom (cur : Text) : Text → List Text
  | [] => if cur = [] then [] else [cur.reverse]
  | c :: cs =>
    if isSpace c then
      if cur = [] then tokensFrom [] cs else cur.reverse :: tokensFrom [] cs
    else tokensFrom (c :: cur) cs

/-- The white-space separated tokens of a line (R76). -/
def tokens (line : Text) : List Text := tokensFrom [] line

/-- At most one trailing `,` is stripped (R92, D4). -/
def stripSeparator (t : Text) : Text := if t.getLast? = some ',' then t.dropLast else t

/-- The value of a decimal digit. -/
def digitValue (c : Char) : Option Nat :=
  if 48 ≤ c.toNat ∧ c.toNat ≤ 57 then some (c.toNat - 48) else none

/-- The value of a run of decimal digits, `acc` already read. -/
def readDigits (acc : Nat) : Text → Option Nat
  | [] => some acc
  | c :: cs =>
    match digitValue c with
    | some d => readDigits (acc * 10 + d) cs
    | none => none

/-- One or more decimal digits. -/
def readNat : Text → Option Nat
  | [] => none
  | c :: cs => readDigits 0 (c :: cs)

/-- An immediate operand: a decimal integer with an optional leading `-` (R77, D4). -/
def readInt : Text → Option Int
  | '-' :: cs => (readNat cs).map (fun n => -(n : Int))
  | t => (readNat t).map (fun n => (n : Int))

/-- The character of a digit. -/
def digitChar (d : Nat) : Char := Char.ofNat (48 + d)

/-- Decimal digits, most significant first; `fuel` more than the number of digits. -/
def decimalFrom : Nat → Nat → Text
  | 0, _ => []
  | fuel + 1, n =>
    if n < 10 then [digitChar n] else decimalFrom fuel (n / 10) ++ [digitChar (n % 10)]

/-- A natural number in decimal, without leading zeros. -/
def decimal (n : Nat) : Text := decimalFrom (n + 1) n

/-- An integer in decimal, with `-` in front where it is negative (D4). -/
def showInt : Int → Text
  | .ofNat n => decimal n
  | .negSucc n => '-' :: decimal (n + 1)

/-- A letter or `_`. -/
def nameStart (c : Char) : Bool := c.isAlpha || c = '_'

/-- An identifier (R76, R181; which characters, DESIGN CHOICE, log 7). -/
def isIdentifier : Text → Bool
  | [] => false
  | c :: cs => nameStart c && cs.all (fun d => nameStart d || d.isDigit)

/-- The name of a label token: an identifier immediately followed by `:`, nothing else on that token (R76, R181). -/
def labelToken (t : Text) : Option Text :=
  if t.getLast? = some ':' ∧ isIdentifier t.dropLast = true then some t.dropLast else none

/-- The label a line defines: its single token is a label token (R181, C2). -/
def labelOf (line : Text) : Option Text :=
  match tokens line with
  | [t] => labelToken t
  | _ => none

/-- The lines U6 puts outside the input contract by their first token, where that is no key of the Catalog: a comment
(`#`, `;` or `//` in front), a directive (`.` in front), a label token with more behind it (R79, U6; which characters begin a
comment or a directive, DESIGN CHOICE, log 7). Every other token is a mnemonic (R93). -/
def outsideByFirstToken (m : Text) : Option Reject :=
  match m with
  | '#' :: _ | ';' :: _ | '/' :: '/' :: _ => some .comment
  | '.' :: _ => some .directive
  | _ => if (labelToken m).isSome then some .labelWithInstruction else none

/-- The label an item defines. A command at the port is an instruction line (R62). -/
def itemLabel : Item → Option Text
  | .text l => labelOf l
  | .port _ _ => none

end Sys2Proof.Machine
end

