-- ==== Sys2Proof/Machine/Catalog.lean ====
section
/-! DEFINITION. Register Resolver and Instruction Catalog (40_resolver_and_catalog.md). -/

namespace Sys2Proof.Machine

/-- The name `xN` of register `N` (R90, D8). -/
def regName (n : Nat) : Text := 'x' :: decimal n

/-- `REGMAP` (R28, R90): the 32 names with their indices. -/
def regmap : List (Text × Reg) := (List.range 32).map (fun n => (regName n, BitVec.ofNat 5 n))

/-- `RESOLVE` (R91). `none` is the lookup failure; it yields no index. -/
def resolve (name : Text) : Option Reg := regmap.lookup name

/-- `CLASSIFY` (R93): exact-string, case-sensitive lookup. `none` is `NotFound`. -/
def classify (catalog : List (Text × FixedFields)) (mnemonic : Text) : Option FixedFields :=
  catalog.lookup mnemonic

/-- The spelling of a mnemonic of the reference Catalog (R99). -/
def mnemonicName : Mnemonic → Text
  | .add => ['a', 'd', 'd']
  | .sub => ['s', 'u', 'b']
  | .sll => ['s', 'l', 'l']
  | .slt => ['s', 'l', 't']
  | .sltu => ['s', 'l', 't', 'u']
  | .xor => ['x', 'o', 'r']
  | .srl => ['s', 'r', 'l']
  | .sra => ['s', 'r', 'a']
  | .or => ['o', 'r']
  | .and => ['a', 'n', 'd']
  | .addi => ['a', 'd', 'd', 'i']
  | .slti => ['s', 'l', 't', 'i']
  | .sltiu => ['s', 'l', 't', 'i', 'u']
  | .xori => ['x', 'o', 'r', 'i']
  | .ori => ['o', 'r', 'i']
  | .andi => ['a', 'n', 'd', 'i']
  | .lb => ['l', 'b']
  | .lh => ['l', 'h']
  | .lw => ['l', 'w']
  | .lbu => ['l', 'b', 'u']
  | .lhu => ['l', 'h', 'u']
  | .jalr => ['j', 'a', 'l', 'r']
  | .sb => ['s', 'b']
  | .sh => ['s', 'h']
  | .sw => ['s', 'w']
  | .beq => ['b', 'e', 'q']
  | .bne => ['b', 'n', 'e']
  | .blt => ['b', 'l', 't']
  | .bge => ['b', 'g', 'e']
  | .bltu => ['b', 'l', 't', 'u']
  | .bgeu => ['b', 'g', 'e', 'u']
  | .lui => ['l', 'u', 'i']
  | .auipc => ['a', 'u', 'i', 'p', 'c']
  | .jal => ['j', 'a', 'l']

/-- The class and fixed fields of a mnemonic of the reference Catalog (R99; `add` and `addi` also R96). -/
def mnemonicFixed : Mnemonic → FixedFields
  | .add => .r 0b0110011#7 0b000#3 0b0000000#7
  | .sub => .r 0b0110011#7 0b000#3 0b0100000#7
  | .sll => .r 0b0110011#7 0b001#3 0b0000000#7
  | .slt => .r 0b0110011#7 0b010#3 0b0000000#7
  | .sltu => .r 0b0110011#7 0b011#3 0b0000000#7
  | .xor => .r 0b0110011#7 0b100#3 0b0000000#7
  | .srl => .r 0b0110011#7 0b101#3 0b0000000#7
  | .sra => .r 0b0110011#7 0b101#3 0b0100000#7
  | .or => .r 0b0110011#7 0b110#3 0b0000000#7
  | .and => .r 0b0110011#7 0b111#3 0b0000000#7
  | .addi => .i 0b0010011#7 0b000#3
  | .slti => .i 0b0010011#7 0b010#3
  | .sltiu => .i 0b0010011#7 0b011#3
  | .xori => .i 0b0010011#7 0b100#3
  | .ori => .i 0b0010011#7 0b110#3
  | .andi => .i 0b0010011#7 0b111#3
  | .lb => .i 0b0000011#7 0b000#3
  | .lh => .i 0b0000011#7 0b001#3
  | .lw => .i 0b0000011#7 0b010#3
  | .lbu => .i 0b0000011#7 0b100#3
  | .lhu => .i 0b0000011#7 0b101#3
  | .jalr => .i 0b1100111#7 0b000#3
  | .sb => .s 0b0100011#7 0b000#3
  | .sh => .s 0b0100011#7 0b001#3
  | .sw => .s 0b0100011#7 0b010#3
  | .beq => .sb 0b1100011#7 0b000#3
  | .bne => .sb 0b1100011#7 0b001#3
  | .blt => .sb 0b1100011#7 0b100#3
  | .bge => .sb 0b1100011#7 0b101#3
  | .bltu => .sb 0b1100011#7 0b110#3
  | .bgeu => .sb 0b1100011#7 0b111#3
  | .lui => .u 0b0110111#7
  | .auipc => .u 0b0010111#7
  | .jal => .uj 0b1101111#7

/-- The 34 mnemonics, in the order of R99. -/
def allMnemonics : List Mnemonic :=
  [.add, .sub, .sll, .slt, .sltu, .xor, .srl, .sra, .or, .and,
   .addi, .slti, .sltiu, .xori, .ori, .andi, .lb, .lh, .lw, .lbu, .lhu, .jalr,
   .sb, .sh, .sw, .beq, .bne, .blt, .bge, .bltu, .bgeu, .lui, .auipc, .jal]

/-- The mnemonic a text spells. -/
def mnemonicOf (t : Text) : Option Mnemonic := allMnemonics.find? (fun m => mnemonicName m = t)

/-- The reference Catalog (R99), the default of the parameter `CATALOG` (D7, log 16). -/
def referenceCatalog : List (Text × FixedFields) :=
  allMnemonics.map (fun m => (mnemonicName m, mnemonicFixed m))

/-- The parameters at their defaults (R7): reference Catalog, all six classes wired, unbounded counter. -/
def defaultParams : Params where
  catalog := referenceCatalog
  wired := [.R, .I, .S, .SB, .U, .UJ]
  addrW := none
  byteOrder := .little

/-- The reachability of the reference behaviour: `WIRED` = R, I, SB, UJ (R168, R200). -/
def referenceWired : List Format := [.R, .I, .SB, .UJ]

/-- What a Catalog must satisfy: one entry a name (R94), `add` and `addi` as DOC shows them, no `mul` (R96). -/
def catalogWf (catalog : List (Text × FixedFields)) : Bool :=
  decide (catalog.map Prod.fst).Nodup &&
  decide (classify catalog ['a', 'd', 'd'] = some (.r 0b0110011#7 0b000#3 0b0000000#7)) &&
  decide (classify catalog ['a', 'd', 'd', 'i'] = some (.i 0b0010011#7 0b000#3)) &&
  decide (classify catalog ['m', 'u', 'l'] = none)

end Sys2Proof.Machine
end

