-- ==== Sys2Proof/Machine/Operands.lean ====
section
/-! DEFINITION. The operand forms of the six classes: how the operand tokens of a line are read and how operands are written
(30_encoding.md rules R76 to R80, 40_resolver_and_catalog.md rules R91, R92). -/

namespace Sys2Proof.Machine

/-- What reading the operand tokens of a class gives. -/
inductive OperandsRead where
  | operands (o : Operands)
  /-- Some register operand failed `RESOLVE` (R91, R213). -/
  | badRegister
  /-- The immediate is not a decimal integer (U7). -/
  | immediateNotInteger
  /-- Missing or extra operands (U6). -/
  | wrongCount
  deriving DecidableEq, Repr

/-- Two register operands and an immediate. The line is in the contract only if the immediate is an integer (U7), so that
is looked at before the registers. -/
def readRegRegImm (make : Reg → Reg → Int → Operands) (a b m : Text) : OperandsRead :=
  match readInt m with
  | none => .immediateNotInteger
  | some v =>
    match resolve a, resolve b with
    | some x, some y => .operands (make x y v)
    | _, _ => .badRegister

/-- One register operand and an immediate. -/
def readRegImm (make : Reg → Int → Operands) (a m : Text) : OperandsRead :=
  match readInt m with
  | none => .immediateNotInteger
  | some v =>
    match resolve a with
    | some x => .operands (make x v)
    | none => .badRegister

/-- The operand tokens of a class, separators already stripped, in the order of R77:
R `rd, rs1, rs2`; I `rd, rs1, imm`; S `rs2, rs1, imm`; SB `rs1, rs2, imm`; U and UJ `rd, imm`. -/
def readOperands : Format → List Text → OperandsRead
  | .R, [a, b, c] =>
    match resolve a, resolve b, resolve c with
    | some rd, some rs1, some rs2 => .operands (.r rd rs1 rs2)
    | _, _, _ => .badRegister
  | .I, [a, b, m] => readRegRegImm (fun rd rs1 v => .i rd rs1 v) a b m
  | .S, [a, b, m] => readRegRegImm (fun rs2 rs1 v => .s rs1 rs2 v) a b m
  | .SB, [a, b, m] => readRegRegImm (fun rs1 rs2 v => .sb rs1 rs2 v) a b m
  | .U, [a, m] => readRegImm (fun rd v => .u rd v) a m
  | .UJ, [a, m] => readRegImm (fun rd v => .uj rd v) a m
  | _, _ => .wrongCount

/-- The operand texts of R77, in order. -/
def operandTexts : Operands → List Text
  | .r rd rs1 rs2 => [regName rd.toNat, regName rs1.toNat, regName rs2.toNat]
  | .i rd rs1 imm => [regName rd.toNat, regName rs1.toNat, showInt imm]
  | .s rs1 rs2 imm => [regName rs2.toNat, regName rs1.toNat, showInt imm]
  | .sb rs1 rs2 imm => [regName rs1.toNat, regName rs2.toNat, showInt imm]
  | .u rd imm => [regName rd.toNat, showInt imm]
  | .uj rd imm => [regName rd.toNat, showInt imm]

/-- Operand texts with a comma and a space between them, the form of DOC's examples (R77). -/
def joinOperands : List Text → Text
  | [] => []
  | [t] => t
  | t :: ts => t ++ [',', ' '] ++ joinOperands ts

/-- The source line of a mnemonic with its operands (R77). -/
def lineOf (mnemonic : Text) (o : Operands) : Text := mnemonic ++ [' '] ++ joinOperands (operandTexts o)

end Sys2Proof.Machine
end

