-- ==== Sys2Proof/WellFormed.lean ====
section
/-! DEFINITION. Which instructions the encodings can hold. -/

namespace Sys2Proof

/-- The raw immediate of an instruction, where it has one. -/
def Instr.imm? : Instr → Option Int
  | .packR .. | .reservedFmt6 | .reservedFmt7 => none
  | .packI _ _ _ _ v | .packS _ _ _ _ v | .packSB _ _ _ _ v | .packU _ _ v | .packUJ _ _ v => some v
  | .add .. | .sub .. | .sll .. | .slt .. | .sltu .. | .xor .. | .srl .. | .sra .. | .or .. | .and .. => none
  | .addi _ _ v | .slti _ _ v | .sltiu _ _ v | .xori _ _ v | .ori _ _ v | .andi _ _ v => some v
  | .lb _ _ v | .lh _ _ v | .lw _ _ v | .lbu _ _ v | .lhu _ _ v | .jalr _ _ v => some v
  | .sb _ _ v | .sh _ _ v | .sw _ _ v => some v
  | .beq _ _ v | .bne _ _ v | .blt _ _ v | .bge _ _ v | .bltu _ _ v | .bgeu _ _ v => some v
  | .lui _ v | .auipc _ v | .jal _ v => some v

/-- The format class of an instruction; the reserved codes have none (R63). -/
def Instr.format? : Instr → Option Format
  | .reservedFmt6 | .reservedFmt7 => none
  | .packR .. => some .R
  | .packI .. => some .I
  | .packS .. => some .S
  | .packSB .. => some .SB
  | .packU .. => some .U
  | .packUJ .. => some .UJ
  | .add .. | .sub .. | .sll .. | .slt .. | .sltu .. | .xor .. | .srl .. | .sra .. | .or .. | .and .. => some .R
  | .addi .. | .slti .. | .sltiu .. | .xori .. | .ori .. | .andi .. => some .I
  | .lb .. | .lh .. | .lw .. | .lbu .. | .lhu .. | .jalr .. => some .I
  | .sb .. | .sh .. | .sw .. => some .S
  | .beq .. | .bne .. | .blt .. | .bge .. | .bltu .. | .bgeu .. => some .SB
  | .lui .. | .auipc .. => some .U
  | .jal .. => some .UJ

/-- The raw immediate fits the 32-bit signed port (`IMM_IN_W`, R7, R62). -/
def fitsPort (v : Int) : Bool := decide (-2 ^ 31 ≤ v ∧ v < 2 ^ 31)

/-- The values of a raw immediate that the word of a class determines exactly (R72, C10). -/
def exactFor : Format → Int → Bool
  | .R, _ => true
  | .I, v | .S, v => decide (-2048 ≤ v ∧ v ≤ 2047)
  | .SB, v => decide (-4096 ≤ v ∧ v ≤ 4094 ∧ v % 2 = 0)
  | .U, v => decide (0 ≤ v ∧ v ≤ 1048575)
  | .UJ, v => decide (-1048576 ≤ v ∧ v ≤ 1048574 ∧ v % 2 = 0)

/-- Well-formed: the command port can hold every operand (R62). -/
def Instr.wf (i : Instr) : Bool :=
  match i.imm? with
  | none => true
  | some v => fitsPort v

/-- Exact: the produced word determines every operand (R72). -/
def Instr.exact (i : Instr) : Bool :=
  match i.format?, i.imm? with
  | some f, some v => exactFor f v
  | _, _ => true

end Sys2Proof
end

