-- ==== Sys2Proof/Decode.lean ====
section
/-! DEFINITION. The decoder: commands at the port (R62, R63), source lines (R76, R77), produced words of the Catalog rows
(spec/opcode_table.json); and after it the encoders. All total. -/

namespace Sys2Proof
open Sys2Proof.Machine

/-! ## Commands at the core's port -/

/-- The fields of the port bits, in the order of R62 with `fmt` in bits 2:0 (log 3). -/
def unpackCommand (b : PortBits) : Command where
  fmt := b.extractLsb 2 0
  opcode := b.extractLsb 9 3
  funct3 := b.extractLsb 12 10
  funct7 := b.extractLsb 19 13
  rd := b.extractLsb 24 20
  rs1 := b.extractLsb 29 25
  rs2 := b.extractLsb 34 30
  imm := b.extractLsb 66 35
  pre := b.extractLsb 68 67

/-- The instruction, or the upstream status, of a command (R63, R164, R166). -/
def decodeCommand (c : Command) : Decoded :=
  if c.pre = 1#2 then .fails .unclassified
  else if c.pre = 2#2 then .fails .badRegister
  else if c.pre = 3#2 then .fails .badFormat
  else
    match fmtClass c.fmt with
    | some .R => .instr (.packR c.opcode c.funct3 c.funct7 c.rd c.rs1 c.rs2)
    | some .I => .instr (.packI c.opcode c.funct3 c.rd c.rs1 c.imm.toInt)
    | some .S => .instr (.packS c.opcode c.funct3 c.rs1 c.rs2 c.imm.toInt)
    | some .SB => .instr (.packSB c.opcode c.funct3 c.rs1 c.rs2 c.imm.toInt)
    | some .U => .instr (.packU c.opcode c.rd c.imm.toInt)
    | some .UJ => .instr (.packUJ c.opcode c.rd c.imm.toInt)
    | none => if c.fmt = 6#3 then .instr .reservedFmt6 else .instr .reservedFmt7

/-! ## Mnemonics and instructions -/

/-- The instruction of a mnemonic of the reference Catalog with the operands of its class. -/
def instrOfRow : Mnemonic → Operands → Option Instr
  | m, .r rd rs1 rs2 =>
    match m with
    | .add => some (.add rd rs1 rs2)
    | .sub => some (.sub rd rs1 rs2)
    | .sll => some (.sll rd rs1 rs2)
    | .slt => some (.slt rd rs1 rs2)
    | .sltu => some (.sltu rd rs1 rs2)
    | .xor => some (.xor rd rs1 rs2)
    | .srl => some (.srl rd rs1 rs2)
    | .sra => some (.sra rd rs1 rs2)
    | .or => some (.or rd rs1 rs2)
    | .and => some (.and rd rs1 rs2)
    | _ => none
  | m, .i rd rs1 v =>
    match m with
    | .addi => some (.addi rd rs1 v)
    | .slti => some (.slti rd rs1 v)
    | .sltiu => some (.sltiu rd rs1 v)
    | .xori => some (.xori rd rs1 v)
    | .ori => some (.ori rd rs1 v)
    | .andi => some (.andi rd rs1 v)
    | .lb => some (.lb rd rs1 v)
    | .lh => some (.lh rd rs1 v)
    | .lw => some (.lw rd rs1 v)
    | .lbu => some (.lbu rd rs1 v)
    | .lhu => some (.lhu rd rs1 v)
    | .jalr => some (.jalr rd rs1 v)
    | _ => none
  | m, .s rs1 rs2 v =>
    match m with
    | .sb => some (.sb rs2 rs1 v)
    | .sh => some (.sh rs2 rs1 v)
    | .sw => some (.sw rs2 rs1 v)
    | _ => none
  | m, .sb rs1 rs2 v =>
    match m with
    | .beq => some (.beq rs1 rs2 v)
    | .bne => some (.bne rs1 rs2 v)
    | .blt => some (.blt rs1 rs2 v)
    | .bge => some (.bge rs1 rs2 v)
    | .bltu => some (.bltu rs1 rs2 v)
    | .bgeu => some (.bgeu rs1 rs2 v)
    | _ => none
  | m, .u rd v =>
    match m with
    | .lui => some (.lui rd v)
    | .auipc => some (.auipc rd v)
    | _ => none
  | m, .uj rd v =>
    match m with
    | .jal => some (.jal rd v)
    | _ => none

/-- The mnemonic and operands of a Catalog row's instruction; the commands at the port have none. -/
def rowOf : Instr → Option (Mnemonic × Operands)
  | .packR .. | .packI .. | .packS .. | .packSB .. | .packU .. | .packUJ .. => none
  | .reservedFmt6 | .reservedFmt7 => none
  | .add rd rs1 rs2 => some (.add, .r rd rs1 rs2)
  | .sub rd rs1 rs2 => some (.sub, .r rd rs1 rs2)
  | .sll rd rs1 rs2 => some (.sll, .r rd rs1 rs2)
  | .slt rd rs1 rs2 => some (.slt, .r rd rs1 rs2)
  | .sltu rd rs1 rs2 => some (.sltu, .r rd rs1 rs2)
  | .xor rd rs1 rs2 => some (.xor, .r rd rs1 rs2)
  | .srl rd rs1 rs2 => some (.srl, .r rd rs1 rs2)
  | .sra rd rs1 rs2 => some (.sra, .r rd rs1 rs2)
  | .or rd rs1 rs2 => some (.or, .r rd rs1 rs2)
  | .and rd rs1 rs2 => some (.and, .r rd rs1 rs2)
  | .addi rd rs1 v => some (.addi, .i rd rs1 v)
  | .slti rd rs1 v => some (.slti, .i rd rs1 v)
  | .sltiu rd rs1 v => some (.sltiu, .i rd rs1 v)
  | .xori rd rs1 v => some (.xori, .i rd rs1 v)
  | .ori rd rs1 v => some (.ori, .i rd rs1 v)
  | .andi rd rs1 v => some (.andi, .i rd rs1 v)
  | .lb rd rs1 v => some (.lb, .i rd rs1 v)
  | .lh rd rs1 v => some (.lh, .i rd rs1 v)
  | .lw rd rs1 v => some (.lw, .i rd rs1 v)
  | .lbu rd rs1 v => some (.lbu, .i rd rs1 v)
  | .lhu rd rs1 v => some (.lhu, .i rd rs1 v)
  | .jalr rd rs1 v => some (.jalr, .i rd rs1 v)
  | .sb rs2 rs1 v => some (.sb, .s rs1 rs2 v)
  | .sh rs2 rs1 v => some (.sh, .s rs1 rs2 v)
  | .sw rs2 rs1 v => some (.sw, .s rs1 rs2 v)
  | .beq rs1 rs2 v => some (.beq, .sb rs1 rs2 v)
  | .bne rs1 rs2 v => some (.bne, .sb rs1 rs2 v)
  | .blt rs1 rs2 v => some (.blt, .sb rs1 rs2 v)
  | .bge rs1 rs2 v => some (.bge, .sb rs1 rs2 v)
  | .bltu rs1 rs2 v => some (.bltu, .sb rs1 rs2 v)
  | .bgeu rs1 rs2 v => some (.bgeu, .sb rs1 rs2 v)
  | .lui rd v => some (.lui, .u rd v)
  | .auipc rd v => some (.auipc, .u rd v)
  | .jal rd v => some (.jal, .uj rd v)

/-- The command of fixed fields and operands of the same class; operands of another class make none. -/
def commandOfFields : FixedFields → Operands → Option Command
  | .r op f3 f7, .r rd rs1 rs2 => some (commandR op f3 f7 rd rs1 rs2)
  | .i op f3, .i rd rs1 v => some (commandI op f3 rd rs1 v)
  | .s op f3, .s rs1 rs2 v => some (commandS op f3 rs1 rs2 v)
  | .sb op f3, .sb rs1 rs2 v => some (commandSB op f3 rs1 rs2 v)
  | .u op, .u rd v => some (commandU op rd v)
  | .uj op, .uj rd v => some (commandUJ op rd v)
  | _, _ => none

/-- The instruction of a Catalog entry that is no row of the reference Catalog: the packer of its class on the entry's
fixed fields (R98, R184). -/
def packOfFields : FixedFields → Operands → Option Instr
  | .r op f3 f7, .r rd rs1 rs2 => some (.packR op f3 f7 rd rs1 rs2)
  | .i op f3, .i rd rs1 v => some (.packI op f3 rd rs1 v)
  | .s op f3, .s rs1 rs2 v => some (.packS op f3 rs1 rs2 v)
  | .sb op f3, .sb rs1 rs2 v => some (.packSB op f3 rs1 rs2 v)
  | .u op, .u rd v => some (.packU op rd v)
  | .uj op, .uj rd v => some (.packUJ op rd v)
  | _, _ => none

/-- The instruction of a classified line: the row of its mnemonic where the Catalog's entry is the reference Catalog's,
else the packer of the entry's class (log 1). -/
def instrOfEntry (mnemonic : Text) (f : FixedFields) (o : Operands) : Option Instr :=
  match mnemonicOf mnemonic with
  | some m => if mnemonicFixed m = f then instrOfRow m o else packOfFields f o
  | none => packOfFields f o

/-! ## Source lines -/

/-- `CLASSIFY`, `RESOLVE` and the immediate of one instruction line, in the order of R218: the Catalog lookup, then the
class, then the operands. A line that ends in `:` and is no label definition (several tokens, or a token that is no
identifier before the `:`) is an instruction line like every other (R181) and gets the status its tokens give it: DESIGN
CHOICE, log 29 (C2 and U6 put it outside the input contract). -/
def decodeLine (p : Params) (line : Text) : Decoded :=
  match tokens line with
  | [] => .rejected .blankLine
  | m :: args =>
    match classify p.catalog m with
    | none =>
      match outsideByFirstToken m with
      | some why => .rejected why
      | none => .fails .unclassified
    | some f =>
      if f.format ∈ p.wired then
        match readOperands f.format (args.map stripSeparator) with
        | .operands o =>
          match instrOfEntry m f o with
          | some i => .instr i
          | none => .rejected .operandCount
        | .badRegister => .fails .badRegister
        | .immediateNotInteger => .rejected .immediateNotInteger
        | .wrongCount => .rejected .operandCount
      else .fails .notWired

/-- One item of the input: a source line, or a command at the port. -/
def decodeItem (p : Params) : Item → Decoded
  | .text line => decodeLine p line
  | .port bits _ => decodeCommand (unpackCommand bits)

/-! ## Produced words of the Catalog rows -/

/-- The `match` number of a catalog row of spec/opcode_table.json. -/
def matchWord : Mnemonic → Word
  | .add => 0x00000033#32
  | .sub => 0x40000033#32
  | .sll => 0x00001033#32
  | .slt => 0x00002033#32
  | .sltu => 0x00003033#32
  | .xor => 0x00004033#32
  | .srl => 0x00005033#32
  | .sra => 0x40005033#32
  | .or => 0x00006033#32
  | .and => 0x00007033#32
  | .addi => 0x00000013#32
  | .slti => 0x00002013#32
  | .sltiu => 0x00003013#32
  | .xori => 0x00004013#32
  | .ori => 0x00006013#32
  | .andi => 0x00007013#32
  | .lb => 0x00000003#32
  | .lh => 0x00001003#32
  | .lw => 0x00002003#32
  | .lbu => 0x00004003#32
  | .lhu => 0x00005003#32
  | .jalr => 0x00000067#32
  | .sb => 0x00000023#32
  | .sh => 0x00001023#32
  | .sw => 0x00002023#32
  | .beq => 0x00000063#32
  | .bne => 0x00001063#32
  | .blt => 0x00004063#32
  | .bge => 0x00005063#32
  | .bltu => 0x00006063#32
  | .bgeu => 0x00007063#32
  | .lui => 0x00000037#32
  | .auipc => 0x00000017#32
  | .jal => 0x0000006f#32

/-- The `mask` number of the rows of a class in spec/opcode_table.json. -/
def maskWord : Format → Word
  | .R => 0xfe00707f#32
  | .I | .S | .SB => 0x0000707f#32
  | .U | .UJ => 0x0000007f#32

/-- A word is a row's word: `word & mask = match`. -/
def rowMatches (w : Word) (m : Mnemonic) : Bool :=
  w &&& maskWord (mnemonicFixed m).format = matchWord m

/-- The operand fields of a word, by the bit ranges of the rows of a class (R72, R157). -/
def operandsOfWord (f : Format) (w : Word) : Operands :=
  let rd := w.extractLsb 11 7
  let rs1 := w.extractLsb 19 15
  let rs2 := w.extractLsb 24 20
  let v := recoveredImm f w
  match f with
  | .R => .r rd rs1 rs2
  | .I => .i rd rs1 v
  | .S => .s rs1 rs2 v
  | .SB => .sb rs1 rs2 v
  | .U => .u rd v
  | .UJ => .uj rd v

/-- The catalog row and operands of a produced word. -/
def decodeWord (w : Word) : Option Instr :=
  match allMnemonics.find? (rowMatches w) with
  | some m => instrOfRow m (operandsOfWord (mnemonicFixed m).format w)
  | none => none

/-- The instruction of a table word (log 22): 32 bits are a catalog row's produced word; any other length is a command
at the port, whose bits 2:0 are the row's `fmt` code. -/
def decodeTableWord (nbits w : Nat) : Option Instr :=
  if nbits = 32 then decodeWord (BitVec.ofNat 32 w)
  else
    match decodeCommand (unpackCommand (BitVec.ofNat 69 w)) with
    | .instr i => some i
    | _ => none

/-! ## Encoders -/

/-- The port bits of a command, in the order of R62 with `fmt` in bits 2:0 (log 3). -/
def packCommand (c : Command) : PortBits :=
  c.pre ++ c.imm ++ c.rs2 ++ c.rs1 ++ c.rd ++ c.funct7 ++ c.funct3 ++ c.opcode ++ c.fmt

/-- The command of a Catalog row with operands: the row's fixed fields (R93, R99). Operands of another class than the
row's do not occur in an instruction; they give a reserved code. -/
def commandOfRow (m : Mnemonic) (o : Operands) : Command :=
  (commandOfFields (mnemonicFixed m) o).getD (commandReserved 7#3)

/-- The command an instruction gives the core: its class's code, its fixed fields, its operands (R62, R93). -/
def commandOf : Instr → Command
  | .packR op f3 f7 rd rs1 rs2 => commandR op f3 f7 rd rs1 rs2
  | .packI op f3 rd rs1 v => commandI op f3 rd rs1 v
  | .packS op f3 rs1 rs2 v => commandS op f3 rs1 rs2 v
  | .packSB op f3 rs1 rs2 v => commandSB op f3 rs1 rs2 v
  | .packU op rd v => commandU op rd v
  | .packUJ op rd v => commandUJ op rd v
  | .reservedFmt6 => commandReserved 6#3
  | .reservedFmt7 => commandReserved 7#3
  | .add rd rs1 rs2 => commandOfRow .add (.r rd rs1 rs2)
  | .sub rd rs1 rs2 => commandOfRow .sub (.r rd rs1 rs2)
  | .sll rd rs1 rs2 => commandOfRow .sll (.r rd rs1 rs2)
  | .slt rd rs1 rs2 => commandOfRow .slt (.r rd rs1 rs2)
  | .sltu rd rs1 rs2 => commandOfRow .sltu (.r rd rs1 rs2)
  | .xor rd rs1 rs2 => commandOfRow .xor (.r rd rs1 rs2)
  | .srl rd rs1 rs2 => commandOfRow .srl (.r rd rs1 rs2)
  | .sra rd rs1 rs2 => commandOfRow .sra (.r rd rs1 rs2)
  | .or rd rs1 rs2 => commandOfRow .or (.r rd rs1 rs2)
  | .and rd rs1 rs2 => commandOfRow .and (.r rd rs1 rs2)
  | .addi rd rs1 v => commandOfRow .addi (.i rd rs1 v)
  | .slti rd rs1 v => commandOfRow .slti (.i rd rs1 v)
  | .sltiu rd rs1 v => commandOfRow .sltiu (.i rd rs1 v)
  | .xori rd rs1 v => commandOfRow .xori (.i rd rs1 v)
  | .ori rd rs1 v => commandOfRow .ori (.i rd rs1 v)
  | .andi rd rs1 v => commandOfRow .andi (.i rd rs1 v)
  | .lb rd rs1 v => commandOfRow .lb (.i rd rs1 v)
  | .lh rd rs1 v => commandOfRow .lh (.i rd rs1 v)
  | .lw rd rs1 v => commandOfRow .lw (.i rd rs1 v)
  | .lbu rd rs1 v => commandOfRow .lbu (.i rd rs1 v)
  | .lhu rd rs1 v => commandOfRow .lhu (.i rd rs1 v)
  | .jalr rd rs1 v => commandOfRow .jalr (.i rd rs1 v)
  | .sb rs2 rs1 v => commandOfRow .sb (.s rs1 rs2 v)
  | .sh rs2 rs1 v => commandOfRow .sh (.s rs1 rs2 v)
  | .sw rs2 rs1 v => commandOfRow .sw (.s rs1 rs2 v)
  | .beq rs1 rs2 v => commandOfRow .beq (.sb rs1 rs2 v)
  | .bne rs1 rs2 v => commandOfRow .bne (.sb rs1 rs2 v)
  | .blt rs1 rs2 v => commandOfRow .blt (.sb rs1 rs2 v)
  | .bge rs1 rs2 v => commandOfRow .bge (.sb rs1 rs2 v)
  | .bltu rs1 rs2 v => commandOfRow .bltu (.sb rs1 rs2 v)
  | .bgeu rs1 rs2 v => commandOfRow .bgeu (.sb rs1 rs2 v)
  | .lui rd v => commandOfRow .lui (.u rd v)
  | .auipc rd v => commandOfRow .auipc (.u rd v)
  | .jal rd v => commandOfRow .jal (.uj rd v)

/-- The input item of an instruction: the source line of a Catalog row's instruction (R77), the port bits of the others
(R62). -/
def encode (i : Instr) : Item :=
  match rowOf i with
  | some (m, o) => .text (lineOf (mnemonicName m) o)
  | none => .port (packCommand (commandOf i)) []

/-- Bits `hi` down to `lo` of a value, moved to bit `position` of a word. -/
def placed {n : Nat} (b : BitVec n) (hi lo position : Nat) : Word :=
  (b.extractLsb hi lo).setWidth 32 <<< position

/-- The operand bits of a word, field by field as the `fields` of the rows of spec/opcode_table.json place them. -/
def operandBits : Operands → Word
  | .r rd rs1 rs2 => placed rs2 4 0 20 ||| placed rs1 4 0 15 ||| placed rd 4 0 7
  | .i rd rs1 v => placed (BitVec.ofInt 12 v) 11 0 20 ||| placed rs1 4 0 15 ||| placed rd 4 0 7
  | .s rs1 rs2 v =>
    let t := BitVec.ofInt 12 v
    placed t 11 5 25 ||| placed rs2 4 0 20 ||| placed rs1 4 0 15 ||| placed t 4 0 7
  | .sb rs1 rs2 v =>
    let t := BitVec.ofInt 13 v
    placed t 12 12 31 ||| placed t 10 5 25 ||| placed rs2 4 0 20 ||| placed rs1 4 0 15 |||
      placed t 4 1 8 ||| placed t 11 11 7
  | .u rd v => placed (BitVec.ofInt 20 v) 19 0 12 ||| placed rd 4 0 7
  | .uj rd v =>
    let t := BitVec.ofInt 21 v
    placed t 20 20 31 ||| placed t 10 1 21 ||| placed t 11 11 20 ||| placed t 19 12 12 ||| placed rd 4 0 7

/-- The produced word of a catalog row, from the table: the row's `match` with the operand fields placed. -/
def tableWord (m : Mnemonic) (o : Operands) : Word := matchWord m ||| operandBits o

/-- The produced word of a Catalog row's instruction, from the table. -/
def encodeWord (i : Instr) : Option Word := (rowOf i).map (fun r => tableWord r.1 r.2)

/-- The input item of a table word (log 22): what `withFetchWord` stores. -/
def itemOfTableWord (nbits w : Nat) : Item :=
  if nbits = 32 then
    match decodeWord (BitVec.ofNat 32 w) with
    | some i => encode i
    | none => .text []
  else .port (BitVec.ofNat 69 w) []

end Sys2Proof
end

