-- ==== Sys2Proof/Machine/State.lean ====
section
/-! DEFINITION. The state of the Line Driver (10_state.md); the core has none (R29). Plain data. -/

namespace Sys2Proof.Machine

/-- Which of the two sequential passes is running, or that the run is over (R180, R243; log 4). -/
inductive Phase where
  | pass1 | pass2 | done
  deriving DecidableEq, Repr

/-- One entry of the retained-line list: a line with the address pass 1 assigned to it (R26, R31). -/
structure Retained where
  addr : Nat
  item : Item
  deriving DecidableEq, Repr

/-- One Encoded Instruction Record (R24, R192). -/
structure Record where
  addr : Nat
  word : Word
  line : Text
  deriving DecidableEq, Repr

/-- One entry of the error channel (R25, D11). -/
structure Diag where
  status : Status
  addr : Nat
  line : Text
  deriving DecidableEq, Repr

/-- The state the spec gives the Line Driver (R22 to R26). The Catalog and the other parameters are no field of it: they are
the argument `p` of `stepWith p` (R27). -/
structure LineDriver where
  /-- The pass that is running (log 4). -/
  phase : Phase
  /-- The lines pass 1 has not read yet (R17, log 5). -/
  input : List Item
  /-- `ADDR`, the address counter (R22). -/
  addr : Nat
  /-- `LABELS`, as the append-only list of its bindings (R23). -/
  labels : List (Text × Nat)
  /-- The retained-line list (R26). -/
  retained : List Retained
  /-- How many retained lines pass 2 has handled (R184, log 4). -/
  cursor : Nat
  /-- `RECORDS`, the output stream (R24). -/
  records : List Record
  /-- `DIAG`, the error channel (R25). -/
  diag : List Diag
  /-- The model's own field: the host's input and output can be opened (R214, log 13). -/
  ioAvailable : Bool
  deriving DecidableEq, Repr

/-- What the host steps: the Line Driver's state beside the parameters of the run, because the host's `step` takes one
argument (log 2). -/
structure State extends LineDriver where
  /-- The parameters of the run (R7, R27): the argument `step` hands to `stepWith`, never written. -/
  cfg : Params
  deriving DecidableEq, Repr

/-- The Line Driver's state beside the given parameters. -/
def LineDriver.withParams (d : LineDriver) (p : Params) : State := { d with cfg := p }

/-- Why the machine stops with a fault. -/
inductive Fault where
  /-- Raised by `step` while the host's input or output cannot be opened: `IoUnavailable` aborts the run, and the state
  after it is not defined (R214, U10). Safe: nothing can be proved of the output of an aborted run. -/
  | ioUnavailable
  /-- Raised by a meaning that is called with no retained line under the cursor; `step` never does so (log 14). Safe. -/
  | noLineToEncode
  deriving DecidableEq, Repr

/-- Why the machine gives an input no meaning. -/
inductive Refusal where
  /-- Raised by an arm of `exec` whose instruction has no meaning yet. Safe. -/
  | notModelled (mnemonic : String)
  /-- Raised by pass 1 when a finite `ADDR_W` has no address left for the line (R22, U9). Safe. -/
  | addressOverflow
  /-- Raised by pass 2 for a line outside the input contract (U6, U7). Safe. -/
  | line (r : Reject)
  deriving DecidableEq, Repr

/-- The machine right after reset, the start of a run (R30, R240): the parameters at their defaults, no input yet. -/
def State.reset : State where
  cfg := defaultParams
  phase := .pass1
  input := []
  addr := addrReset
  labels := []
  retained := []
  cursor := 0
  records := []
  diag := []
  ioAvailable := true

/-- The state at the start of a run over the given input with the given parameters (R242). -/
def State.start (cfg : Params) (input : List Item) : State := { State.reset with cfg := cfg, input := input }

end Sys2Proof.Machine
end

