-- ==== Sys2Proof/Machine/Flags.lean ====
section
/-! DEFINITION. The block has no flags (R21). What stands in their place is the status of a command (60_exceptions.md rules
R210 and R218). -/

namespace Sys2Proof.Machine

/-- The numeric code of a status (R210, D13). -/
def statusCode : Status → Nat
  | .ok => 0
  | .unclassified => 1
  | .badRegister => 2
  | .badFormat => 3
  | .notWired => 4
  | .ioUnavailable => 5

/-- The status on the result port (R160, R210). -/
def resultStatus : Result → Status
  | .word _ => .ok
  | .raised e => e

/-- A status that ends one line and not the run: the entries DIAG can hold (R210). -/
def isLineError : Status → Bool
  | .unclassified | .badRegister | .badFormat | .notWired => true
  | .ok | .ioUnavailable => false

/-- The status of a fault of the machine, where it is one of the statuses of R210. -/
def faultStatus : Fault → Option Status
  | .ioUnavailable => some .ioUnavailable
  | .noLineToEncode => none

end Sys2Proof.Machine
end

