-- ==== Sys2Proof/Machine/Ops.lean ====
section
/-! DEFINITION. The named operations over the state: binding a label, assigning an address, emitting a record, raising a
status, and running one command (44_line_driver.md, 60_exceptions.md). -/

namespace Sys2Proof.Machine

/-- The outcomes of the machine. -/
abbrev Outcome := Host.Outcome State Fault Refusal

/-- The retained line pass 2 is at (R184). -/
def State.current (s : State) : Option Retained := s.retained[s.cursor]?

/-! ## Pass 1 -/

/-- `LABEL` (R182): bind the name to ADDR; ADDR is unchanged. -/
def bindLabel (name : Text) (s : State) : State := { s with labels := s.labels ++ [(name, s.addr)] }

/-- A finite counter has an address for one more line: the run does not pass `2^ADDR_W - 4` (R22, U9). -/
def addrFits (addrW : Option Nat) (a : Nat) : Bool :=
  match addrW with
  | none => true
  | some w => decide (a + addrStep ≤ 2 ^ w)

/-- `INSTR.assign` (R184): retain the line at ADDR and advance ADDR by 4. -/
def assignAddress (it : Item) (s : State) : State :=
  { s with retained := s.retained ++ [⟨s.addr, it⟩], addr := s.addr + addrStep }

/-- Pass 1 on one line (R181, R182, R184). -/
def readLine (it : Item) (s : State) : Outcome :=
  match itemLabel it with
  | some name => .next (bindLabel name s)
  | none =>
    if addrFits s.cfg.addrW s.addr then .next (assignAddress it s) else .refused .addressOverflow

/-- The barrier between the passes: the label table is frozen (R50, R180). -/
def endPass1 (s : State) : State := { s with phase := .pass2 }

/-! ## Pass 2 -/

/-- `emit Record(a, w, line)` for the line pass 2 is at, which is then handled (R24, R184). -/
def emitRecord (r : Retained) (w : Word) (s : State) : State :=
  { s with records := s.records ++ [⟨r.addr, w, r.item.line⟩], cursor := s.cursor + 1 }

/-- `raise e`: the whole effect of an error is one DIAG entry and no record; the next line proceeds (R12, R224, R226).
This is the machine's one exception operation; there is no trap entry and no return (R224, R226). -/
def raiseStatus (r : Retained) (e : Status) (s : State) : State :=
  { s with diag := s.diag ++ [⟨e, r.addr, r.item.line⟩], cursor := s.cursor + 1 }

/-- `INSTR.encode` after ENCODE (R184): a record if the status is OK, a DIAG entry if not. -/
def finishLine (r : Retained) (res : Result) (s : State) : State :=
  match res with
  | .word w => emitRecord r w s
  | .raised e => raiseStatus r e s

/-- One result for the line under the cursor. -/
def finish (res : Result) (s : State) : Outcome :=
  match s.current with
  | some r => .next (finishLine r res s)
  | none => .fault .noLineToEncode

/-- Run one command for the line under the cursor: ENCODE, then the record or the diagnostic (R160, R184). -/
def runCommand (c : Command) (s : State) : Outcome := finish (encodeMux s.cfg.wired c) s

/-- The end of a run (R243). -/
def endRun (s : State) : State := { s with phase := .done }

/-! ## Reading the results -/

/-- The addresses of the definitions of a label name, in order (R23). -/
def labelDefinitions (s : State) (name : Text) : List Nat :=
  (s.labels.filter (fun b => b.1 = name)).map Prod.snd

/-- The address a label name stands for in LABELS (R23). A name defined more than once stands for any one of its
definitions (U5, log 11). -/
def labelAddress (s : State) (name : Text) : Option Nat :=
  match labelDefinitions s name with
  | [] => none
  | [a] => some a
  | a :: b :: more =>
    let all := a :: b :: more
    all[Config.pickDefinition name all % all.length]?

/-- The mnemonic a diagnostic identifies: the first token of its line (R196, R212). -/
def diagMnemonic (d : Diag) : Option Text := (tokens d.line).head?

end Sys2Proof.Machine
end

