-- ==== Sys2Proof/Machine/CatalogI.lean ====
section
/-! DEFINITION. The meanings of the I-class Catalog rows: lines `mnemonic rd, rs1, imm`, encoded by `PACK.I` (R99, R138). -/

namespace Sys2Proof.Machine

/-- `addi` (R96, R138): opcode 0010011, funct3 000. -/
def execAddi (rd rs1 : Reg) (imm : Int) (s : State) : Outcome :=
  runCommand (commandI 0b0010011#7 0b000#3 rd rs1 imm) s

/-- `slti` (R99, R138): opcode 0010011, funct3 010. -/
def execSlti (rd rs1 : Reg) (imm : Int) (s : State) : Outcome :=
  runCommand (commandI 0b0010011#7 0b010#3 rd rs1 imm) s

/-- `sltiu` (R99, R138): opcode 0010011, funct3 011. -/
def execSltiu (rd rs1 : Reg) (imm : Int) (s : State) : Outcome :=
  runCommand (commandI 0b0010011#7 0b011#3 rd rs1 imm) s

/-- `xori` (R99, R138): opcode 0010011, funct3 100. -/
def execXori (rd rs1 : Reg) (imm : Int) (s : State) : Outcome :=
  runCommand (commandI 0b0010011#7 0b100#3 rd rs1 imm) s

/-- `ori` (R99, R138): opcode 0010011, funct3 110. -/
def execOri (rd rs1 : Reg) (imm : Int) (s : State) : Outcome :=
  runCommand (commandI 0b0010011#7 0b110#3 rd rs1 imm) s

/-- `andi` (R99, R138): opcode 0010011, funct3 111. -/
def execAndi (rd rs1 : Reg) (imm : Int) (s : State) : Outcome :=
  runCommand (commandI 0b0010011#7 0b111#3 rd rs1 imm) s

/-- `lb` (R99, R138): opcode 0000011, funct3 000. -/
def execLb (rd rs1 : Reg) (imm : Int) (s : State) : Outcome :=
  runCommand (commandI 0b0000011#7 0b000#3 rd rs1 imm) s

/-- `lh` (R99, R138): opcode 0000011, funct3 001. -/
def execLh (rd rs1 : Reg) (imm : Int) (s : State) : Outcome :=
  runCommand (commandI 0b0000011#7 0b001#3 rd rs1 imm) s

/-- `lw` (R99, R138): opcode 0000011, funct3 010. -/
def execLw (rd rs1 : Reg) (imm : Int) (s : State) : Outcome :=
  runCommand (commandI 0b0000011#7 0b010#3 rd rs1 imm) s

/-- `lbu` (R99, R138): opcode 0000011, funct3 100. -/
def execLbu (rd rs1 : Reg) (imm : Int) (s : State) : Outcome :=
  runCommand (commandI 0b0000011#7 0b100#3 rd rs1 imm) s

/-- `lhu` (R99, R138): opcode 0000011, funct3 101. -/
def execLhu (rd rs1 : Reg) (imm : Int) (s : State) : Outcome :=
  runCommand (commandI 0b0000011#7 0b101#3 rd rs1 imm) s

/-- `jalr` (R99, R138): opcode 1100111, funct3 000. -/
def execJalr (rd rs1 : Reg) (imm : Int) (s : State) : Outcome :=
  runCommand (commandI 0b1100111#7 0b000#3 rd rs1 imm) s

end Sys2Proof.Machine
end

