-- ==== Sys2Proof/Machine/CatalogR.lean ====
section
/-! DEFINITION. The meanings of the R-class Catalog rows: lines `mnemonic rd, rs1, rs2`, encoded by `PACK.R` (R99, R130). -/

namespace Sys2Proof.Machine

/-- `add` (R96, R130): opcode 0110011, funct3 000, funct7 0000000. -/
def execAdd (rd rs1 rs2 : Reg) (s : State) : Outcome :=
  runCommand (commandR 0b0110011#7 0b000#3 0b0000000#7 rd rs1 rs2) s

/-- `sub` (R99, R130): opcode 0110011, funct3 000, funct7 0100000. -/
def execSub (rd rs1 rs2 : Reg) (s : State) : Outcome :=
  runCommand (commandR 0b0110011#7 0b000#3 0b0100000#7 rd rs1 rs2) s

/-- `sll` (R99, R130): opcode 0110011, funct3 001, funct7 0000000. -/
def execSll (rd rs1 rs2 : Reg) (s : State) : Outcome :=
  runCommand (commandR 0b0110011#7 0b001#3 0b0000000#7 rd rs1 rs2) s

/-- `slt` (R99, R130): opcode 0110011, funct3 010, funct7 0000000. -/
def execSlt (rd rs1 rs2 : Reg) (s : State) : Outcome :=
  runCommand (commandR 0b0110011#7 0b010#3 0b0000000#7 rd rs1 rs2) s

/-- `sltu` (R99, R130): opcode 0110011, funct3 011, funct7 0000000. -/
def execSltu (rd rs1 rs2 : Reg) (s : State) : Outcome :=
  runCommand (commandR 0b0110011#7 0b011#3 0b0000000#7 rd rs1 rs2) s

/-- `xor` (R99, R130): opcode 0110011, funct3 100, funct7 0000000. -/
def execXor (rd rs1 rs2 : Reg) (s : State) : Outcome :=
  runCommand (commandR 0b0110011#7 0b100#3 0b0000000#7 rd rs1 rs2) s

/-- `srl` (R99, R130): opcode 0110011, funct3 101, funct7 0000000. -/
def execSrl (rd rs1 rs2 : Reg) (s : State) : Outcome :=
  runCommand (commandR 0b0110011#7 0b101#3 0b0000000#7 rd rs1 rs2) s

/-- `sra` (R99, R130): opcode 0110011, funct3 101, funct7 0100000. -/
def execSra (rd rs1 rs2 : Reg) (s : State) : Outcome :=
  runCommand (commandR 0b0110011#7 0b101#3 0b0100000#7 rd rs1 rs2) s

/-- `or` (R99, R130): opcode 0110011, funct3 110, funct7 0000000. -/
def execOr (rd rs1 rs2 : Reg) (s : State) : Outcome :=
  runCommand (commandR 0b0110011#7 0b110#3 0b0000000#7 rd rs1 rs2) s

/-- `and` (R99, R130): opcode 0110011, funct3 111, funct7 0000000. -/
def execAnd (rd rs1 rs2 : Reg) (s : State) : Outcome :=
  runCommand (commandR 0b0110011#7 0b111#3 0b0000000#7 rd rs1 rs2) s

end Sys2Proof.Machine
end

