-- ==== Sys2Proof/Machine/CatalogS.lean ====
section
/-! DEFINITION. The meanings of the S-class Catalog rows: lines `mnemonic rs2, rs1, imm` (D4), encoded by `PACK.S` (R99, R142). -/

namespace Sys2Proof.Machine

/-- `sb` (R99, R142): opcode 0100011, funct3 000. -/
def execSb (rs2 rs1 : Reg) (imm : Int) (s : State) : Outcome :=
  runCommand (commandS 0b0100011#7 0b000#3 rs1 rs2 imm) s

/-- `sh` (R99, R142): opcode 0100011, funct3 001. -/
def execSh (rs2 rs1 : Reg) (imm : Int) (s : State) : Outcome :=
  runCommand (commandS 0b0100011#7 0b001#3 rs1 rs2 imm) s

/-- `sw` (R99, R142): opcode 0100011, funct3 010. -/
def execSw (rs2 rs1 : Reg) (imm : Int) (s : State) : Outcome :=
  runCommand (commandS 0b0100011#7 0b010#3 rs1 rs2 imm) s

end Sys2Proof.Machine
end

