-- ==== Sys2Proof/Machine/CatalogSB.lean ====
section
/-! DEFINITION. The meanings of the SB-class Catalog rows: lines `mnemonic rs1, rs2, imm` (D4), encoded by `PACK.SB` (R99, R146). -/

namespace Sys2Proof.Machine

/-- `beq` (R99, R146): opcode 1100011, funct3 000. -/
def execBeq (rs1 rs2 : Reg) (imm : Int) (s : State) : Outcome :=
  runCommand (commandSB 0b1100011#7 0b000#3 rs1 rs2 imm) s

/-- `bne` (R99, R146): opcode 1100011, funct3 001. -/
def execBne (rs1 rs2 : Reg) (imm : Int) (s : State) : Outcome :=
  runCommand (commandSB 0b1100011#7 0b001#3 rs1 rs2 imm) s

/-- `blt` (R99, R146): opcode 1100011, funct3 100. -/
def execBlt (rs1 rs2 : Reg) (imm : Int) (s : State) : Outcome :=
  runCommand (commandSB 0b1100011#7 0b100#3 rs1 rs2 imm) s

/-- `bge` (R99, R146): opcode 1100011, funct3 101. -/
def execBge (rs1 rs2 : Reg) (imm : Int) (s : State) : Outcome :=
  runCommand (commandSB 0b1100011#7 0b101#3 rs1 rs2 imm) s

/-- `bltu` (R99, R146): opcode 1100011, funct3 110. -/
def execBltu (rs1 rs2 : Reg) (imm : Int) (s : State) : Outcome :=
  runCommand (commandSB 0b1100011#7 0b110#3 rs1 rs2 imm) s

/-- `bgeu` (R99, R146): opcode 1100011, funct3 111. -/
def execBgeu (rs1 rs2 : Reg) (imm : Int) (s : State) : Outcome :=
  runCommand (commandSB 0b1100011#7 0b111#3 rs1 rs2 imm) s

end Sys2Proof.Machine
end

