-- ==== Sys2Proof/Machine/CatalogU.lean ====
section
/-! DEFINITION. The meanings of the U-class Catalog rows: lines `mnemonic rd, imm` (D4), encoded by `PACK.U` (R99, R150). -/

namespace Sys2Proof.Machine

/-- `lui` (R99, R150): opcode 0110111. -/
def execLui (rd : Reg) (imm : Int) (s : State) : Outcome :=
  runCommand (commandU 0b0110111#7 rd imm) s

/-- `auipc` (R99, R150): opcode 0010111. -/
def execAuipc (rd : Reg) (imm : Int) (s : State) : Outcome :=
  runCommand (commandU 0b0010111#7 rd imm) s

end Sys2Proof.Machine
end

