-- ==== Sys2Proof/Machine/CatalogUJ.lean ====
section
/-! DEFINITION. The meaning of the UJ-class Catalog row: a line `jal rd, imm` (D4), encoded by `PACK.UJ` (R99, R154). -/

namespace Sys2Proof.Machine

/-- `jal` (R99, R154): opcode 1101111. -/
def execJal (rd : Reg) (imm : Int) (s : State) : Outcome :=
  runCommand (commandUJ 0b1101111#7 rd imm) s

end Sys2Proof.Machine
end

