-- ==== Sys2Proof/Machine/Pack.lean ====
section
/-! DEFINITION. The meanings of the commands at the core's port: the six arms of the format multiplexer and the two reserved codes
(R160, R166). -/

namespace Sys2Proof.Machine

/-- `PACK.R` (R130): a command with fmt 0. -/
def execPackR (opcode : Opcode) (funct3 : Funct3) (funct7 : Funct7) (rd rs1 rs2 : Reg) (s : State) : Outcome :=
  runCommand (commandR opcode funct3 funct7 rd rs1 rs2) s

/-- `PACK.I` (R138): a command with fmt 1. -/
def execPackI (opcode : Opcode) (funct3 : Funct3) (rd rs1 : Reg) (imm : Int) (s : State) : Outcome :=
  runCommand (commandI opcode funct3 rd rs1 imm) s

/-- `PACK.S` (R142): a command with fmt 2. -/
def execPackS (opcode : Opcode) (funct3 : Funct3) (rs1 rs2 : Reg) (imm : Int) (s : State) : Outcome :=
  runCommand (commandS opcode funct3 rs1 rs2 imm) s

/-- `PACK.SB` (R146): a command with fmt 3. -/
def execPackSB (opcode : Opcode) (funct3 : Funct3) (rs1 rs2 : Reg) (imm : Int) (s : State) : Outcome :=
  runCommand (commandSB opcode funct3 rs1 rs2 imm) s

/-- `PACK.U` (R150): a command with fmt 4. -/
def execPackU (opcode : Opcode) (rd : Reg) (imm : Int) (s : State) : Outcome :=
  runCommand (commandU opcode rd imm) s

/-- `PACK.UJ` (R154): a command with fmt 5. -/
def execPackUJ (opcode : Opcode) (rd : Reg) (imm : Int) (s : State) : Outcome :=
  runCommand (commandUJ opcode rd imm) s

/-- `RESERVED.fmt6` (R166): status BadFormat, no word, the run continues (R216). -/
def execReservedFmt6 (s : State) : Outcome := runCommand (commandReserved 6#3) s

/-- `RESERVED.fmt7` (R166): status BadFormat, no word, the run continues (R216). -/
def execReservedFmt7 (s : State) : Outcome := runCommand (commandReserved 7#3) s

end Sys2Proof.Machine
end

