-- ==== Sys2Proof/Machine/Step.lean ====
section
/-! DEFINITION. One step of the encoder: one line of pass 1, one line of pass 2, or the end of a pass. -/

namespace Sys2Proof.Machine

/-- Pass 2 on one line: run the instruction it decodes to, raise the status it ends with, or refuse a line outside the
input contract (R184, R218). -/
def encodeLine (it : Item) (s : State) : Outcome :=
  match decodeItem s.cfg it with
  | .instr i => exec i s
  | .fails e => finish (.raised e) s
  | .rejected r => .refused (.line r)

/-- Pass 1: the next line of the input, or the barrier (R180). -/
def stepPass1 (s : State) : Outcome :=
  match s.input with
  | [] => .next (endPass1 s)
  | it :: rest => readLine it { s with input := rest }

/-- Pass 2: the next retained line, or the end of the run (R184, R243). -/
def stepPass2 (s : State) : Outcome :=
  match s.current with
  | some r => encodeLine r.item s
  | none => .next (endRun s)

/-- The part of an outcome that is the Line Driver's. -/
def withoutParams : Outcome → Host.Outcome LineDriver Fault Refusal
  | .next t => .next t.toLineDriver
  | .fault r => .fault r
  | .refused r => .refused r

/-- An outcome of the Line Driver, beside the parameters of the run. -/
def withParams (p : Params) : Host.Outcome LineDriver Fault Refusal → Outcome
  | .next d => .next (d.withParams p)
  | .fault r => .fault r
  | .refused r => .refused r

/-- One step of the Line Driver (R15, R247). The Catalog is a parameter of the step function, not a field of the state it
steps (R27), and so are the other parameters of R7. A finished run stays as it is (R243, log 4). -/
def stepWith (p : Params) (d : LineDriver) : Host.Outcome LineDriver Fault Refusal :=
  if d.ioAvailable then
    match d.phase with
    | .pass1 => withoutParams (stepPass1 (d.withParams p))
    | .pass2 => withoutParams (stepPass2 (d.withParams p))
    | .done => .next d
  else .fault .ioUnavailable

/-- One step in the host's form: the step of the Line Driver with the parameters of the run. -/
def step (s : State) : Host.Outcome State Fault Refusal := withParams s.cfg (stepWith s.cfg s.toLineDriver)

/-- The state with the line of a table word as the line pass 2 encodes next, as if pass 1 had just assigned it an address
(log 5, log 22). -/
def State.withFetchWord (s : State) (nbits w : Nat) : State :=
  { assignAddress (itemOfTableWord nbits w) s with
    phase := .pass2, cursor := s.retained.length, ioAvailable := true }

end Sys2Proof.Machine
end

