-- ==== Sys2Proof/Machine/Output.lean ====
section
/-! DEFINITION. Derived views of RECORDS: the printed record (R194) and the bytes a loader would store (R47). No step
depends on them. -/

namespace Sys2Proof.Machine

/-- A lower-case hexadecimal digit. -/
def hexChar (d : Nat) : Char := if d < 10 then Char.ofNat (48 + d) else Char.ofNat (87 + d)

/-- Hexadecimal digits, most significant first. -/
def hexFrom : Nat → Nat → Text
  | 0, _ => []
  | fuel + 1, n => if n < 16 then [hexChar n] else hexFrom fuel (n / 16) ++ [hexChar (n % 16)]

/-- An address: "lowercase hexadecimal, no leading zero-padding" (R194). -/
def hexAddress (n : Nat) : Text := hexFrom (n + 1) n

/-- The 32 binary digits of a word, most significant first (R60, R194, C5). -/
def wordDigits (w : Word) : Text :=
  (List.range 32).map (fun k => if w.getLsbD (31 - k) then '1' else '0')

/-- The printed record (R194). What DOC does not settle of it is free (U16, log 20). -/
def printRecord (r : Record) : Text :=
  Config.addressLead ++ hexAddress r.addr ++ Config.gapAfterAddress ++ ['0', 'x'] ++ wordDigits r.word ++
    Config.gapBeforeComma ++ [','] ++ Config.gapAfterComma ++ r.line ++ Config.lineEnd

/-- The four bytes of one record at its address, in the byte order of the parameter (R47). -/
def recordCells (o : ByteOrder) (r : Record) : List Host.Cell :=
  (List.range 4).zipWith (fun k b => (r.addr + k, b)) (wordBytes o r.word)

/-- The bytes of RECORDS, by rising address (R47, R190). -/
def image (s : State) : List Host.Cell := s.records.flatMap (recordCells s.cfg.byteOrder)

end Sys2Proof.Machine
end

