-- ==== Sys2Proof/Machine/Run.lean ====
section
/-! DEFINITION. What a whole run is: the result of a line as a function, the one-pass form of rule R188, and the results of
a finished run (R243). -/

namespace Sys2Proof.Machine

/-- The result of one instruction line, a function of the parameters and the line alone (R15, R172, R198). -/
def lineResult (p : Params) (it : Item) : Except Reject Result :=
  match decodeItem p it with
  | .instr i => .ok (encodeMux p.wired (commandOf i))
  | .fails e => .ok (.raised e)
  | .rejected r => .error r

/-- The record of a retained line, where its status is OK (R184). -/
def recordOf (p : Params) (r : Retained) : Option Record :=
  match lineResult p r.item with
  | .ok (.word w) => some ⟨r.addr, w, r.item.line⟩
  | _ => none

/-- The DIAG entry of a retained line, where its status is another (R184). -/
def diagOf (p : Params) (r : Retained) : Option Diag :=
  match lineResult p r.item with
  | .ok (.raised e) => some ⟨e, r.addr, r.item.line⟩
  | _ => none

/-- The results of a run: "the finished RECORDS and DIAG and the final ADDR and LABELS" (R243). -/
structure Results where
  addr : Nat
  labels : List (Text × Nat)
  records : List Record
  diag : List Diag
  deriving DecidableEq, Repr

/-- The results a state holds. -/
def State.results (s : State) : Results := ⟨s.addr, s.labels, s.records, s.diag⟩

/-- The results before the first line (R30). -/
def Results.empty : Results := ⟨addrReset, [], [], []⟩

/-- The one-pass form of a line (R188): `LABEL` as in R182; `INSTR` as `a <- ADDR; ADDR <- ADDR + 4; encode at a`. -/
def onePassLine (p : Params) (it : Item) (x : Results) : Except Refusal Results :=
  match itemLabel it with
  | some name => .ok { x with labels := x.labels ++ [(name, x.addr)] }
  | none =>
    if addrFits p.addrW x.addr then
      match lineResult p it with
      | .error r => .error (.line r)
      | .ok (.word w) =>
        .ok { x with addr := x.addr + addrStep, records := x.records ++ [⟨x.addr, w, it.line⟩] }
      | .ok (.raised e) =>
        .ok { x with addr := x.addr + addrStep, diag := x.diag ++ [⟨e, x.addr, it.line⟩] }
    else .error .addressOverflow

/-- The lines from `x` on, each once, in order (R188). -/
def onePassFrom (p : Params) (x : Results) : List Item → Except Refusal Results
  | [] => .ok x
  | it :: rest =>
    match onePassLine p it x with
    | .ok y => onePassFrom p y rest
    | .error e => .error e

/-- A whole run in one pass (R188). -/
def onePass (p : Params) (items : List Item) : Except Refusal Results := onePassFrom p Results.empty items

/-- How many lines of an input are instruction lines (R181, R190). -/
def instructionLines (items : List Item) : Nat := (items.filter (fun it => (itemLabel it).isNone)).length

/-- The run over an input with the given parameters is over in the state `t` (R243). -/
def RunEnds (p : Params) (items : List Item) (t : State) : Prop :=
  ∃ k, Host.Core.run Sys2Proof.core k (State.start p items) = .next t ∧ t.phase = .done

end Sys2Proof.Machine
end

