-- ==== Sys2Proof/Safety.lean ====
section
/-! DEFINITION. What a sound state and a safe run are. -/

namespace Sys2Proof.Machine

/-- What holds in every state of a run (R22, R31, R41, R44, R49, R190, R210). -/
structure State.Inv (s : State) : Prop where
  /-- ADDR is 4 times the number of instruction lines read (R190). -/
  addr_counts : s.addr = addrStep * s.retained.length
  /-- The k-th instruction line has the address 4*k (R41, R190). -/
  assigned : ∀ k r, s.retained[k]? = some r → r.addr = addrStep * k
  /-- Pass 2 stands at a retained line or behind the last one. -/
  cursor_le : s.cursor ≤ s.retained.length
  /-- Pass 2 has not begun while pass 1 reads (R50, R180). -/
  pass1_first : s.phase = .pass1 → s.cursor = 0
  /-- Pass 1 has read all of the input before pass 2 begins (R50, R180). -/
  input_read : s.phase ≠ .pass1 → s.input = []
  /-- A run that is over has handled every retained line (R243). -/
  done_all : s.phase = .done → s.cursor = s.retained.length
  /-- Every line handled has ended with exactly one record or one DIAG entry (R210, C3). -/
  handled : s.records.length + s.diag.length = s.cursor
  /-- Addresses in RECORDS are strictly increasing (R49, R190). -/
  records_increase : (s.records.map Record.addr).Pairwise (· < ·)
  /-- Addresses in DIAG are strictly increasing (R218). -/
  diag_increase : (s.diag.map Diag.addr).Pairwise (· < ·)
  /-- A record's address is the slot of a handled line (R41, R44). -/
  record_slots : ∀ r ∈ s.records, r.addr % addrStep = 0 ∧ r.addr < addrStep * s.cursor
  /-- A DIAG entry's address is the slot of a handled line. -/
  diag_slots : ∀ d ∈ s.diag, d.addr % addrStep = 0 ∧ d.addr < addrStep * s.cursor
  /-- No line has both a record and a DIAG entry (R210). -/
  slots_apart : ∀ r ∈ s.records, ∀ d ∈ s.diag, r.addr ≠ d.addr
  /-- DIAG holds only the statuses that end one line (R210). -/
  diag_errors : ∀ d ∈ s.diag, isLineError d.status = true
  /-- A label names a slot, or the one after the last (R42). -/
  label_slots : ∀ b ∈ s.labels, b.2 % addrStep = 0 ∧ b.2 ≤ s.addr
  /-- A finite counter has not passed its last address (R22, U9). -/
  addr_fits : ∀ w, s.cfg.addrW = some w → s.addr ≤ 2 ^ w

/-- The outputs are a function of the lines handled, the Catalog and the register map (R15, R198). -/
structure State.OutputsFollowLines (s : State) : Prop where
  cursor_le : s.cursor ≤ s.retained.length
  records_eq : s.records = (s.retained.take s.cursor).filterMap (recordOf s.cfg)
  diag_eq : s.diag = (s.retained.take s.cursor).filterMap (diagOf s.cfg)

/-- A line inside the input contract: a label definition, or a line the decoder does not reject (R76, R244). -/
def inContract (p : Params) (it : Item) : Bool :=
  (itemLabel it).isSome ||
    match decodeItem p it with
    | .rejected _ => false
    | _ => true

/-- A safe run: no number of steps meets a fault or a refusal. -/
def SafeRun (s : State) : Prop := ∀ k, ∃ t, Host.Core.run Sys2Proof.core k s = .next t

end Sys2Proof.Machine
end

