-- ==== Sys2Proof/Certificates/Slice0/Obligations.lean ====
section
/-! DEFINITION. The statements for the provers. No program stands in them; each docstring says which rule of spec/ it
formalises. -/

open Sys2Proof Sys2Proof.Machine

/-! ## Reset and the shape of a step -/

/-- R30, R240: at the start of a run ADDR is 0 and LABELS, RECORDS, DIAG and the retained lines are empty; the constant
tables are complete. That reset's Catalog is the reference Catalog is the model's choice (log 16). -/
def Obligations.ResetStartsARunEmpty : Prop :=
  State.reset.addr = 0 ∧ State.reset.labels = [] ∧ State.reset.records = [] ∧ State.reset.diag = [] ∧
    State.reset.retained = [] ∧ regmap.length = 32 ∧ catalogWf State.reset.cfg.catalog = true ∧
    ∀ (p : Params) (items : List Item), (State.start p items).addr = 0 ∧ (State.start p items).labels = [] ∧
      (State.start p items).records = [] ∧ (State.start p items).diag = [] ∧ (State.start p items).retained = []

/-- The invariants hold at reset and at the start of every run. -/
def Obligations.SoundStateAtReset : Prop :=
  State.reset.Inv ∧ State.reset.OutputsFollowLines ∧
    ∀ (p : Params) (items : List Item), (State.start p items).Inv ∧ (State.start p items).OutputsFollowLines

/-- R22, R41, R44, R49, R50, R190, R210: every step keeps the invariant `State.Inv`. -/
def Obligations.StepKeepsSoundState : Prop :=
  ∀ s t : State, s.Inv → step s = .next t → t.Inv

/-- R15, R172, R198: every step keeps RECORDS and DIAG the function of the lines handled, the Catalog and the register map. -/
def Obligations.StepKeepsOutputsFollowLines : Prop :=
  ∀ s t : State, s.OutputsFollowLines → step s = .next t → t.OutputsFollowLines

/-- A step of pass 2 on a line that decodes to an instruction is that instruction's `exec`; the cursor's move past the
line is part of `exec`. -/
def Obligations.StepRunsDecodedInstruction : Prop :=
  ∀ (s : State) (r : Retained) (i : Instr), s.ioAvailable = true → s.phase = .pass2 → s.current = some r →
    decodeItem s.cfg r.item = .instr i → step s = exec i s

/-- R184, R224 (a status): a line that ends with a status before any packer is selected leaves one DIAG entry; and (log 9)
a line outside the input contract is refused by name. -/
def Obligations.StepOnLineWithoutInstruction : Prop :=
  ∀ (s : State) (r : Retained), s.ioAvailable = true → s.phase = .pass2 → s.current = some r →
    (∀ e, decodeItem s.cfg r.item = .fails e →
      step s = .next { s with diag := s.diag ++ [⟨e, r.addr, r.item.line⟩], cursor := s.cursor + 1 }) ∧
    (∀ why, decodeItem s.cfg r.item = .rejected why → step s = .refused (.line why))

/-- R184, pass 1: an instruction line is retained at ADDR and ADDR advances by 4. R22, U9: with a finite ADDR_W a line past
`2^ADDR_W - 4` is refused. -/
def Obligations.PassOneAssignsAddress : Prop :=
  ∀ (s : State) (it : Item) (rest : List Item), s.ioAvailable = true → s.phase = .pass1 → s.input = it :: rest →
    itemLabel it = none →
    ((∀ w, s.cfg.addrW = some w → s.addr + 4 ≤ 2 ^ w) →
      step s = .next { s with input := rest, retained := s.retained ++ [⟨s.addr, it⟩], addr := s.addr + 4 }) ∧
    (∀ w, s.cfg.addrW = some w → 2 ^ w < s.addr + 4 → step s = .refused .addressOverflow)

/-- R182: a label line binds its name to ADDR; ADDR is unchanged; no record, no diagnostic. -/
def Obligations.PassOneBindsLabel : Prop :=
  ∀ (s : State) (it : Item) (rest : List Item) (name : Text), s.ioAvailable = true → s.phase = .pass1 →
    s.input = it :: rest → itemLabel it = some name →
    step s = .next { s with input := rest, labels := s.labels ++ [(name, s.addr)] }

/-- R181, R76: a line is a label definition exactly when its single token is an identifier followed by `:`, and the label is
that identifier. Which characters an identifier has and which white space parts tokens is the model's choice (log 7), and
so is that a command at the port is an instruction line (log 27). -/
def Obligations.LabelDefinitionLines : Prop :=
  ∀ (l name : Text) (b : PortBits),
    (itemLabel (.text l) = some name ↔ tokens l = [name ++ [':']] ∧ isIdentifier name = true) ∧
    itemLabel (.port b l) = none

/-- R180, R243: pass 1 ends when the input is read, pass 2 when the last retained line is handled; and (log 4, the model's
choice) a finished run stays as it is. -/
def Obligations.PassesEndInOrder : Prop :=
  ∀ s : State, s.ioAvailable = true →
    (s.phase = .pass1 → s.input = [] → step s = .next { s with phase := .pass2 }) ∧
    (s.phase = .pass2 → s.retained.length ≤ s.cursor → step s = .next { s with phase := .done }) ∧
    (s.phase = .done → step s = .next s)

/-- R214: input or output that cannot be opened aborts the run, in every state. -/
def Obligations.IoUnavailableAbortsRun : Prop :=
  ∀ s : State, s.ioAvailable = false → step s = .fault .ioUnavailable ∧
    faultStatus .ioUnavailable = some .ioUnavailable

/-! ## The meanings: results, completion, frames -/

/-- R130 with the fixed fields of R96 and R99: each R-class row, wired, emits `funct7 ‖ rs2 ‖ rs1 ‖ funct3 ‖ rd ‖ opcode`
for the line under the cursor, and changes nothing else. All rows but `add` are the reference Catalog's (G2, log 16). -/
def Obligations.RegisterRowsEmitPackedWord : Prop :=
  ∀ (s : State) (r : Retained) (rd rs1 rs2 : Reg), s.current = some r → Format.R ∈ s.cfg.wired →
    let emits (f7 : Funct7) (f3 : Funct3) : Outcome :=
      .next { s with
        records := s.records ++ [⟨r.addr, f7 ++ rs2 ++ rs1 ++ f3 ++ rd ++ 0b0110011#7, r.item.line⟩]
        cursor := s.cursor + 1 }
    exec (.add rd rs1 rs2) s = emits 0b0000000#7 0b000#3 ∧
    exec (.sub rd rs1 rs2) s = emits 0b0100000#7 0b000#3 ∧
    exec (.sll rd rs1 rs2) s = emits 0b0000000#7 0b001#3 ∧
    exec (.slt rd rs1 rs2) s = emits 0b0000000#7 0b010#3 ∧
    exec (.sltu rd rs1 rs2) s = emits 0b0000000#7 0b011#3 ∧
    exec (.xor rd rs1 rs2) s = emits 0b0000000#7 0b100#3 ∧
    exec (.srl rd rs1 rs2) s = emits 0b0000000#7 0b101#3 ∧
    exec (.sra rd rs1 rs2) s = emits 0b0100000#7 0b101#3 ∧
    exec (.or rd rs1 rs2) s = emits 0b0000000#7 0b110#3 ∧
    exec (.and rd rs1 rs2) s = emits 0b0000000#7 0b111#3

/-- R138 with the fixed fields of R96 and R99: each I-class row, wired, emits `imm[11:0] ‖ rs1 ‖ funct3 ‖ rd ‖ opcode`, the
immediate reduced modulo 2^12 whatever its size (R114, R215), and changes nothing else. All rows but `addi` are the
reference Catalog's (G2, log 16). -/
def Obligations.ImmediateRowsEmitPackedWord : Prop :=
  ∀ (s : State) (r : Retained) (rd rs1 : Reg) (imm : Int), s.current = some r → Format.I ∈ s.cfg.wired →
    let emits (f3 : Funct3) (op : Opcode) : Outcome :=
      .next { s with
        records := s.records ++ [⟨r.addr, BitVec.ofInt 12 imm ++ rs1 ++ f3 ++ rd ++ op, r.item.line⟩]
        cursor := s.cursor + 1 }
    exec (.addi rd rs1 imm) s = emits 0b000#3 0b0010011#7 ∧
    exec (.slti rd rs1 imm) s = emits 0b010#3 0b0010011#7 ∧
    exec (.sltiu rd rs1 imm) s = emits 0b011#3 0b0010011#7 ∧
    exec (.xori rd rs1 imm) s = emits 0b100#3 0b0010011#7 ∧
    exec (.ori rd rs1 imm) s = emits 0b110#3 0b0010011#7 ∧
    exec (.andi rd rs1 imm) s = emits 0b111#3 0b0010011#7 ∧
    exec (.lb rd rs1 imm) s = emits 0b000#3 0b0000011#7 ∧
    exec (.lh rd rs1 imm) s = emits 0b001#3 0b0000011#7 ∧
    exec (.lw rd rs1 imm) s = emits 0b010#3 0b0000011#7 ∧
    exec (.lbu rd rs1 imm) s = emits 0b100#3 0b0000011#7 ∧
    exec (.lhu rd rs1 imm) s = emits 0b101#3 0b0000011#7 ∧
    exec (.jalr rd rs1 imm) s = emits 0b000#3 0b1100111#7

/-- R142 with the fixed fields of R99: each S-class row, wired, emits the split immediate `t[11:5]`, `t[4:0]` around
`rs2 ‖ rs1 ‖ funct3`, and changes nothing else. The rows are the reference Catalog's (G2, log 16). -/
def Obligations.StoreRowsEmitPackedWord : Prop :=
  ∀ (s : State) (r : Retained) (rs1 rs2 : Reg) (imm : Int), s.current = some r → Format.S ∈ s.cfg.wired →
    let t := BitVec.ofInt 12 imm
    let emits (f3 : Funct3) : Outcome :=
      .next { s with
        records := s.records ++
          [⟨r.addr, t.extractLsb 11 5 ++ rs2 ++ rs1 ++ f3 ++ t.extractLsb 4 0 ++ 0b0100011#7, r.item.line⟩]
        cursor := s.cursor + 1 }
    exec (.sb rs2 rs1 imm) s = emits 0b000#3 ∧
    exec (.sh rs2 rs1 imm) s = emits 0b001#3 ∧
    exec (.sw rs2 rs1 imm) s = emits 0b010#3

/-- R146 with the fixed fields of R99: each SB-class row, wired, emits
`t[12] ‖ t[10:5] ‖ rs2 ‖ rs1 ‖ funct3 ‖ t[4:1] ‖ t[11] ‖ opcode` of the 13-bit offset, and changes nothing else. The rows are the
reference Catalog's (G2, log 16). -/
def Obligations.BranchRowsEmitPackedWord : Prop :=
  ∀ (s : State) (r : Retained) (rs1 rs2 : Reg) (imm : Int), s.current = some r → Format.SB ∈ s.cfg.wired →
    let t := BitVec.ofInt 13 imm
    let emits (f3 : Funct3) : Outcome :=
      .next { s with
        records := s.records ++
          [⟨r.addr, t.extractLsb 12 12 ++ t.extractLsb 10 5 ++ rs2 ++ rs1 ++ f3 ++ t.extractLsb 4 1 ++
            t.extractLsb 11 11 ++ 0b1100011#7, r.item.line⟩]
        cursor := s.cursor + 1 }
    exec (.beq rs1 rs2 imm) s = emits 0b000#3 ∧
    exec (.bne rs1 rs2 imm) s = emits 0b001#3 ∧
    exec (.blt rs1 rs2 imm) s = emits 0b100#3 ∧
    exec (.bge rs1 rs2 imm) s = emits 0b101#3 ∧
    exec (.bltu rs1 rs2 imm) s = emits 0b110#3 ∧
    exec (.bgeu rs1 rs2 imm) s = emits 0b111#3

/-- R150 and R154 with the fixed fields of R99: the U-class rows emit `t[19:0] ‖ rd ‖ opcode` (layout: D6, log 15) and `jal`
emits `t[20] ‖ t[10:1] ‖ t[11] ‖ t[19:12] ‖ rd ‖ opcode`; nothing else changes. The rows are the reference Catalog's (G2,
log 16). -/
def Obligations.UpperAndJumpRowsEmitPackedWord : Prop :=
  ∀ (s : State) (r : Retained) (rd : Reg) (imm : Int), s.current = some r →
    let emits (w : Word) : Outcome :=
      .next { s with records := s.records ++ [⟨r.addr, w, r.item.line⟩], cursor := s.cursor + 1 }
    let t := BitVec.ofInt 21 imm
    (Format.U ∈ s.cfg.wired →
      exec (.lui rd imm) s = emits (BitVec.ofInt 20 imm ++ rd ++ 0b0110111#7) ∧
      exec (.auipc rd imm) s = emits (BitVec.ofInt 20 imm ++ rd ++ 0b0010111#7)) ∧
    (Format.UJ ∈ s.cfg.wired →
      exec (.jal rd imm) s =
        emits (t.extractLsb 20 20 ++ t.extractLsb 10 1 ++ t.extractLsb 11 11 ++ t.extractLsb 19 12 ++ rd ++
          0b1101111#7))

/-- R130, R138, R142, R146, R154 for the word, R160 and R184 for the record, the cursor and the frame: a command at the port,
wired, emits exactly its packer's word, whatever the fixed fields and the immediate are, and changes nothing else. That the
PACK rows are commands at the port is log 1, that an immediate past the 32-bit port has a meaning is log 25. -/
def Obligations.PortCommandsEmitPackedWord : Prop :=
  ∀ (s : State) (r : Retained) (op : Opcode) (f3 : Funct3) (f7 : Funct7) (rd rs1 rs2 : Reg) (imm : Int),
    s.current = some r →
    let emits (w : Word) : Outcome :=
      .next { s with records := s.records ++ [⟨r.addr, w, r.item.line⟩], cursor := s.cursor + 1 }
    let b := BitVec.ofInt 13 imm
    let j := BitVec.ofInt 21 imm
    (Format.R ∈ s.cfg.wired → exec (.packR op f3 f7 rd rs1 rs2) s = emits (f7 ++ rs2 ++ rs1 ++ f3 ++ rd ++ op)) ∧
    (Format.I ∈ s.cfg.wired →
      exec (.packI op f3 rd rs1 imm) s = emits (BitVec.ofInt 12 imm ++ rs1 ++ f3 ++ rd ++ op)) ∧
    (Format.S ∈ s.cfg.wired →
      exec (.packS op f3 rs1 rs2 imm) s =
        emits ((BitVec.ofInt 12 imm).extractLsb 11 5 ++ rs2 ++ rs1 ++ f3 ++ (BitVec.ofInt 12 imm).extractLsb 4 0 ++
          op)) ∧
    (Format.SB ∈ s.cfg.wired →
      exec (.packSB op f3 rs1 rs2 imm) s =
        emits (b.extractLsb 12 12 ++ b.extractLsb 10 5 ++ rs2 ++ rs1 ++ f3 ++ b.extractLsb 4 1 ++
          b.extractLsb 11 11 ++ op)) ∧
    (Format.UJ ∈ s.cfg.wired →
      exec (.packUJ op rd imm) s =
        emits (j.extractLsb 20 20 ++ j.extractLsb 10 1 ++ j.extractLsb 11 11 ++ j.extractLsb 19 12 ++ rd ++ op))

/-- A U command at the port, wired, emits the low 20 bits of the immediate, `rd` and `opcode`, and changes nothing else. The
layout is the spec's decision D6, from general knowledge (R150, G3, log 15). -/
def Obligations.UpperPortCommandEmitsPackedWord : Prop :=
  ∀ (s : State) (r : Retained) (op : Opcode) (rd : Reg) (imm : Int), s.current = some r → Format.U ∈ s.cfg.wired →
    exec (.packU op rd imm) s =
      .next { s with
        records := s.records ++ [⟨r.addr, BitVec.ofInt 20 imm ++ rd ++ op, r.item.line⟩]
        cursor := s.cursor + 1 }

/-- R166, R216: a reserved format code ends its line with BadFormat, one DIAG entry and no record, whatever is wired
(the spec's decisions D2, D11). -/
def Obligations.ReservedCodesRaiseBadFormat : Prop :=
  ∀ (s : State) (r : Retained), s.current = some r →
    let out : Outcome :=
      .next { s with diag := s.diag ++ [⟨.badFormat, r.addr, r.item.line⟩], cursor := s.cursor + 1 }
    exec .reservedFmt6 s = out ∧ exec .reservedFmt7 s = out

/-- R168, R218 item 2: an instruction of a class that is not wired ends its line with NotWired, no record and one DIAG entry;
and so does a source line whose mnemonic the Catalog maps to a class that is not wired, whatever its operands are: a bad
register, a wrong operand count or a non-integer immediate does not count (the spec's decisions D5, D11, D13). -/
def Obligations.UnwiredClassRaisesNotWired : Prop :=
  (∀ (s : State) (r : Retained) (i : Instr) (f : Format), s.current = some r → i.format? = some f →
    f ∉ s.cfg.wired →
    exec i s = .next { s with diag := s.diag ++ [⟨.notWired, r.addr, r.item.line⟩], cursor := s.cursor + 1 }) ∧
  ∀ (s : State) (a : Nat) (l m : Text) (args : List Text) (f : FixedFields), s.ioAvailable = true →
    s.phase = .pass2 → s.current = some ⟨a, .text l⟩ → tokens l = m :: args →
    classify s.cfg.catalog m = some f → f.format ∉ s.cfg.wired →
    step s = .next { s with diag := s.diag ++ [⟨.notWired, a, l⟩], cursor := s.cursor + 1 }

/-- R210: every instruction completes on the line under the cursor, in every state, and leaves exactly one record or one
DIAG entry more. -/
def Obligations.EveryInstructionCompletes : Prop :=
  ∀ (i : Instr) (s : State) (r : Retained), s.current = some r →
    ∃ t, exec i s = .next t ∧ t.cursor = s.cursor + 1 ∧
      t.records.length + t.diag.length = s.records.length + s.diag.length + 1

/-- R214 and (log 14, the model's choice): an instruction called with no line under the cursor faults, and a step never calls
one so: the only fault of a step is that input or output is unavailable. -/
def Obligations.OnlyFaultIsIoUnavailable : Prop :=
  (∀ (i : Instr) (s : State), s.current = none → exec i s = .fault .noLineToEncode) ∧
  ∀ (s : State) (f : Fault), step s = .fault f ↔ s.ioAvailable = false ∧ f = .ioUnavailable

/-- R224, R184 (frame of every instruction): ADDR, LABELS, the retained lines, the input, the pass and the parameters are
unchanged; either RECORDS grows by one record at the line's assigned address (R246) and DIAG is unchanged, or DIAG grows by
one entry with that address and line and RECORDS is unchanged. -/
def Obligations.EveryInstructionFrame : Prop :=
  ∀ (i : Instr) (s t : State), exec i s = .next t →
    t.cfg = s.cfg ∧ t.phase = s.phase ∧ t.input = s.input ∧ t.addr = s.addr ∧ t.labels = s.labels ∧
    t.retained = s.retained ∧ t.ioAvailable = s.ioAvailable ∧ t.cursor = s.cursor + 1 ∧
    ∃ r, s.current = some r ∧
      ((∃ w, t.records = s.records ++ [⟨r.addr, w, r.item.line⟩] ∧ t.diag = s.diag) ∨
       (∃ e, isLineError e = true ∧ t.diag = s.diag ++ [⟨e, r.addr, r.item.line⟩] ∧ t.records = s.records))

/-- The word a Catalog row's instruction emits is the word of its row in spec/opcode_table.json: `match` with the operand
fields placed by the row's bit ranges. Two tables of the spec, R99 with the packers and the opcode table, agree. The rows but `add` and `addi` are the
reference Catalog's (G2, log 16), the layout of the words of `lui` and `auipc` is D6 (log 15). -/
def Obligations.RowsEmitTheOpcodeTableWord : Prop :=
  ∀ (i : Instr) (f : Format) (w : Word) (s : State) (r : Retained), encodeWord i = some w → i.format? = some f →
    f ∈ s.cfg.wired → s.current = some r →
    exec i s = .next { s with records := s.records ++ [⟨r.addr, w, r.item.line⟩], cursor := s.cursor + 1 }

/-! ## Lines and commands of pass 2, from the input on -/

/-- R160, R184: a step on a command at the port ends its line with what ENCODE answers. -/
def Obligations.StepOnPortCommandIsEncode : Prop :=
  ∀ (s : State) (a : Nat) (b : PortBits) (l : Text), s.ioAvailable = true → s.phase = .pass2 →
    s.current = some ⟨a, .port b l⟩ →
    step s =
      match encodeMux s.cfg.wired (unpackCommand b) with
      | .word w => .next { s with records := s.records ++ [⟨a, w, l⟩], cursor := s.cursor + 1 }
      | .raised e => .next { s with diag := s.diag ++ [⟨e, a, l⟩], cursor := s.cursor + 1 }

/-- R212, R164, R93, R75: a line whose first token is not in the Catalog is Unclassified whatever its operands are, but for the
lines U6 puts outside the contract by that token: a comment, a directive, a label with an instruction behind it. Which
characters begin those is the model's choice (log 7), and so is that a line of several tokens that ends in `:` is an
instruction line (log 29). -/
def Obligations.UnknownMnemonicIsUnclassified : Prop :=
  ∀ (s : State) (a : Nat) (l m : Text) (args : List Text), s.ioAvailable = true → s.phase = .pass2 →
    s.current = some ⟨a, .text l⟩ → tokens l = m :: args → outsideByFirstToken m = none →
    (∀ e ∈ s.cfg.catalog, e.1 ≠ m) →
    step s = .next { s with diag := s.diag ++ [⟨.unclassified, a, l⟩], cursor := s.cursor + 1 }

/-- R213, R91, R218: a classified line of a wired class with a register operand that is none of the 32 names ends with
BadRegister: no record, one DIAG entry (D11; names and operand orders: D8, D4, log 8 and 23). A
literal outside 32 bits is no reason to stop (log 10), and a last operand that ends in `:` is a bad register (log 29). -/
def Obligations.BadRegisterLineHasNoRecord : Prop :=
  ∀ (s : State) (a : Nat) (l m x y z : Text) (v : Int), s.ioAvailable = true → s.phase = .pass2 →
    s.current = some ⟨a, .text l⟩ →
    let bad : Outcome := .next { s with diag := s.diag ++ [⟨.badRegister, a, l⟩], cursor := s.cursor + 1 }
    let name (t : Text) : Option Reg := resolve (stripSeparator t)
    let number (t : Text) : Option Int := readInt (stripSeparator t)
    (∀ op f3 f7, tokens l = [m, x, y, z] → classify s.cfg.catalog m = some (.r op f3 f7) → Format.R ∈ s.cfg.wired →
      name x = none ∨ name y = none ∨ name z = none → step s = bad) ∧
    (∀ f, tokens l = [m, x, y, z] → classify s.cfg.catalog m = some f → f.format ∈ s.cfg.wired →
      f.format = .I ∨ f.format = .S ∨ f.format = .SB → number z = some v → name x = none ∨ name y = none →
      step s = bad) ∧
    (∀ f, tokens l = [m, x, z] → classify s.cfg.catalog m = some f → f.format ∈ s.cfg.wired →
      f.format = .U ∨ f.format = .UJ → number z = some v → name x = none → step s = bad)

/-- R184, R77, R94, R98: for EVERY Catalog, a line whose mnemonic the Catalog maps to a wired class and whose operands read
in the order of that class emits the packer's word on the entry's fixed fields, at the line's assigned address. Operand
orders of S, SB, U and UJ: D4 (log 8). A literal outside 32 bits wraps: the model's choice (U11, log 10). The layout of the U
word: D6 (log 15). -/
def Obligations.ClassifiedLineEmitsItsWord : Prop :=
  ∀ (s : State) (a : Nat) (l m x y z : Text) (rx ry rz : Reg) (v : Int), s.ioAvailable = true → s.phase = .pass2 →
    s.current = some ⟨a, .text l⟩ →
    let emits (w : Word) : Outcome :=
      .next { s with records := s.records ++ [⟨a, w, l⟩], cursor := s.cursor + 1 }
    let name (t : Text) : Option Reg := resolve (stripSeparator t)
    let number (t : Text) : Option Int := readInt (stripSeparator t)
    (∀ op f3 f7, tokens l = [m, x, y, z] → classify s.cfg.catalog m = some (.r op f3 f7) → Format.R ∈ s.cfg.wired →
      name x = some rx → name y = some ry → name z = some rz → step s = emits (packR op f3 f7 rx ry rz)) ∧
    (∀ op f3, tokens l = [m, x, y, z] → classify s.cfg.catalog m = some (.i op f3) → Format.I ∈ s.cfg.wired →
      name x = some rx → name y = some ry → number z = some v → step s = emits (packI op f3 rx ry v)) ∧
    (∀ op f3, tokens l = [m, x, y, z] → classify s.cfg.catalog m = some (.s op f3) → Format.S ∈ s.cfg.wired →
      name x = some rx → name y = some ry → number z = some v → step s = emits (packS op f3 ry rx v)) ∧
    (∀ op f3, tokens l = [m, x, y, z] → classify s.cfg.catalog m = some (.sb op f3) → Format.SB ∈ s.cfg.wired →
      name x = some rx → name y = some ry → number z = some v → step s = emits (packSB op f3 rx ry v)) ∧
    (∀ op, tokens l = [m, x, z] → classify s.cfg.catalog m = some (.u op) → Format.U ∈ s.cfg.wired →
      name x = some rx → number z = some v → step s = emits (packU op rx v)) ∧
    (∀ op, tokens l = [m, x, z] → classify s.cfg.catalog m = some (.uj op) → Format.UJ ∈ s.cfg.wired →
      name x = some rx → number z = some v → step s = emits (packUJ op rx v))

/-! ## Whole-machine rules -/

/-- R27, R24, R25, R23: a step never writes the parameters, and RECORDS, DIAG and LABELS only grow at their end. The
parameters are an argument of the step function `stepWith`, which steps the Line Driver's state alone; the host's `step` is
that step beside them (log 2). -/
def Obligations.OutputsOnlyGrow : Prop :=
  (∀ s t : State, step s = .next t →
    t.cfg = s.cfg ∧ s.records <+: t.records ∧ s.diag <+: t.diag ∧ s.labels <+: t.labels ∧ s.retained <+: t.retained) ∧
  ∀ (p : Params) (d e : LineDriver), step (d.withParams p) = .next (e.withParams p) ↔ stepWith p d = .next e

/-- R23, R26, R31, R50: pass 1 writes no output; after it ADDR, LABELS and the retained lines are frozen. -/
def Obligations.PassesWriteTheirOwnState : Prop :=
  ∀ s t : State, step s = .next t →
    (s.phase = .pass1 → t.records = s.records ∧ t.diag = s.diag ∧ t.cursor = s.cursor) ∧
    (s.phase ≠ .pass1 → t.addr = s.addr ∧ t.labels = s.labels ∧ t.retained = s.retained ∧ t.phase ≠ .pass1)

/-- R22: ADDR is advanced by exactly 4, by an instruction line of pass 1, and by nothing else. -/
def Obligations.AddressAdvancesByFour : Prop :=
  ∀ s t : State, step s = .next t →
    (t.addr = s.addr ∧ t.retained = s.retained) ∨
    (t.addr = s.addr + 4 ∧ s.phase = .pass1 ∧ ∃ it rest, s.input = it :: rest ∧ itemLabel it = none ∧
      t.retained = s.retained ++ [⟨s.addr, it⟩])

/-- R23, R186, U2: LABELS is never read: two states that differ in LABELS alone step alike, to states that differ in LABELS
alone. -/
def Obligations.LabelsAreNeverRead : Prop :=
  ∀ (s : State) (ls : List (Text × Nat)),
    match step s, step { s with labels := ls } with
    | .next t, .next t' => { t with labels := [] } = { t' with labels := [] }
    | .fault a, .fault b => a = b
    | .refused a, .refused b => a = b
    | _, _ => False

/-- R172, R186, R246: no instruction reads ADDR or LABELS: it does the same to states that differ in them, and leaves them
as they are. -/
def Obligations.InstructionsReadNoCounterOrLabels : Prop :=
  ∀ (i : Instr) (s : State) (a : Nat) (ls : List (Text × Nat)),
    match exec i s, exec i { s with addr := a, labels := ls } with
    | .next t, .next t' => t' = { t with addr := a, labels := ls }
    | .fault x, .fault y => x = y
    | .refused x, .refused y => x = y
    | _, _ => False

/-- R188: one pass gives the same RECORDS, DIAG, final LABELS and ADDR as two, on every input that completes, and completes
on the same inputs. -/
def Obligations.OnePassEqualsTwoPasses : Prop :=
  ∀ (p : Params) (items : List Item) (x : Results),
    onePass p items = .ok x ↔ ∃ t, RunEnds p items t ∧ t.results = x

/-- R243, R244, R190: an input of lines inside the contract (which lines those are: log 7, 8, 9, 29, and
log 10 for literals outside 32 bits), with an unbounded counter, runs safely for ever, is over after as many steps as it has
lines, instruction lines again and two, and then ADDR is 4 times the number of instruction lines and each of them has ended
with one record or one DIAG entry. The two steps that end the passes, and that a finished run stays as it is, are log 4. -/
def Obligations.LegalInputRunsToTheEnd : Prop :=
  ∀ (p : Params) (items : List Item), p.addrW = none → (∀ it ∈ items, inContract p it = true) →
    SafeRun (State.start p items) ∧
    ∃ t, Host.Core.run Sys2Proof.core (items.length + instructionLines items + 2) (State.start p items) = .next t ∧
      t.phase = .done ∧ t.addr = 4 * instructionLines items ∧
      t.records.length + t.diag.length = instructionLines items

/-- R49, R213, R226: replacing one instruction line by another changes no other line's record or DIAG entry, no label and no
address. -/
def Obligations.OneLineChangesNoOther : Prop :=
  ∀ (p : Params) (before after : List Item) (l l' : Item) (t t' : State), itemLabel l = none → itemLabel l' = none →
    RunEnds p (before ++ l :: after) t → RunEnds p (before ++ l' :: after) t' →
    let slot := 4 * instructionLines before
    t.addr = t'.addr ∧ t.labels = t'.labels ∧
      t.records.filter (fun r => r.addr ≠ slot) = t'.records.filter (fun r => r.addr ≠ slot) ∧
      t.diag.filter (fun d => d.addr ≠ slot) = t'.diag.filter (fun d => d.addr ≠ slot)

/-- R190: the k-th instruction line has address 4*k; after a run that is over, ADDR is 4 times their number, addresses in
RECORDS are strictly increasing, and two neighbouring records differ by 4 times one more than the number of failed lines
between them. -/
def Obligations.FinalAddressesCountLines : Prop :=
  ∀ (p : Params) (items : List Item) (t : State), RunEnds p items t →
    t.retained.map Retained.item = items.filter (fun it => (itemLabel it).isNone) ∧
    (∀ k r, t.retained[k]? = some r → r.addr = 4 * k) ∧
    t.addr = 4 * instructionLines items ∧ (t.records.map Record.addr).Pairwise (· < ·) ∧
    ∀ k a b, t.records[k]? = some a → t.records[k + 1]? = some b →
      b.addr = a.addr +
        4 * (1 + (t.diag.filter (fun d => decide (a.addr < d.addr ∧ d.addr < b.addr))).length)

/-- R23, R182: an address LABELS gives for a name is one its lines bound, every bound name has one, and a name bound once
has that one; which one a name bound twice has is free (U5, log 11). -/
def Obligations.LabelNamesItsBinding : Prop :=
  ∀ (s : State) (name : Text),
    (∀ a, labelAddress s name = some a → (name, a) ∈ s.labels) ∧
    (∀ a, (name, a) ∈ s.labels → ∃ b, labelAddress s name = some b) ∧
    (∀ a, (name, a) ∈ s.labels → (∀ b, (name, b) ∈ s.labels → b = a) → labelAddress s name = some a)

/-! ## Decoding and encoding -/

/-- Words and lines written out from the spec's encodings decode to the instruction they stand for (S1, S2, vectors V-SB1,
V-S2, V-U3, V-UJ1; R63, R77). That a 32-bit table word is a produced word is the model's choice (log 22). -/
def Obligations.WrittenWordsDecode : Prop :=
  decodeTableWord 32 0b00000000001100010000000010110011 = some (.add 1 2 3) ∧
  decodeTableWord 32 0b00000000101000000000001010010011 = some (.addi 5 0 10) ∧
  decodeTableWord 32 0b00000000111000010010010000100011 = some (.sw 14 2 8) ∧
  decodeTableWord 32 0b00000000001000001000010001100011 = some (.beq 1 2 8) ∧
  decodeTableWord 32 0b00010010001101000101001010110111 = some (.lui 5 74565) ∧
  decodeTableWord 32 0b00000000010000000000000011101111 = some (.jal 1 4) ∧
  decodeTableWord 8 0b110 = some .reservedFmt6 ∧
  decodeItem defaultParams (.text ['a', 'd', 'd', 'i', ' ', 'x', '5', ',', ' ', 'x', '0', ',', ' ', '1', '0']) =
    .instr (.addi 5 0 10)

/-- Decode and encode agree: the input item of every well-formed instruction (its source line, R77, or its port bits, R62)
decodes to it, for every Catalog that has the row of its mnemonic and every WIRED that has its class. Operand
orders are D4 (log 8), the places of the port bits the model's (log 3). -/
def Obligations.DecodeOfEncodedInstruction : Prop :=
  ∀ (p : Params) (i : Instr), i.wf = true →
    (∀ m o, rowOf i = some (m, o) →
      classify p.catalog (mnemonicName m) = some (mnemonicFixed m) ∧ (mnemonicFixed m).format ∈ p.wired) →
    decodeItem p (encode i) = .instr i

/-- Every Catalog row's instruction whose immediate its word determines (R72) is read back from its word. The U
immediate is read as unsigned (log 24). -/
def Obligations.DecodeOfTableWord : Prop :=
  ∀ (i : Instr) (w : Word), i.exact = true → encodeWord i = some w → decodeWord w = some i

/-- The other direction: a word that decodes to a Catalog row's instruction is that instruction's word, and determines its
immediate (R72): no bit of the word is dropped. -/
def Obligations.TableWordOfDecoded : Prop :=
  ∀ (w : Word) (i : Instr), decodeWord w = some i → i.exact = true ∧ encodeWord i = some w

/-- R62: the port bits hold every field of every command and nothing else (bit places: log 3). -/
def Obligations.PortBitsHoldTheCommand : Prop :=
  (∀ c : Command, unpackCommand (packCommand c) = c) ∧ (∀ b : PortBits, packCommand (unpackCommand b) = b)

/-! ## Register Resolver and Catalog -/

/-- R91, R90: RESOLVE answers an index exactly for the name `x` followed by that index in decimal; every other string fails. -/
def Obligations.ResolveIsExact : Prop :=
  regmap.length = 32 ∧ ∀ (name : Text) (r : Reg), resolve name = some r ↔ name = 'x' :: decimal r.toNat

/-- R93, R94: CLASSIFY answers the entry of exactly the mnemonics the Catalog lists, and NotFound for every other string;
the reference Catalog meets R94 and R96. -/
def Obligations.ClassifyIsExact : Prop :=
  catalogWf referenceCatalog = true ∧
  ∀ (catalog : List (Text × FixedFields)) (m : Text), (catalog.map Prod.fst).Nodup →
    (∀ f, classify catalog m = some f ↔ (m, f) ∈ catalog) ∧
    (classify catalog m = none ↔ ∀ f, (m, f) ∉ catalog)

/-! ## Field Encoder -/

/-- R110: `unsigned(toBits(v, n)) = v mod 2^n`, and on the 32-bit port it is the low wires of the input. At width 0 and above
32 the first clause is the model's choice (U8, log 28). -/
def Obligations.ToBitsIsTheModulus : Prop :=
  (∀ (v : Int) (n : Nat), ((toBits v n).toNat : Int) = v % 2 ^ n) ∧
  (∀ (v : ImmPort) (n : Nat), 1 ≤ n → n ≤ 32 → toBits v.toInt n = v.setWidth n)

/-- R113: reading the result back as two's complement gives the unique representative of the value in the signed range,
which is the value itself where it is in range. At widths above 32 it is the model's choice (U8, log 28). -/
def Obligations.ToBitsRoundTrip : Prop :=
  ∀ (v : Int) (n : Nat), 1 ≤ n →
    (∀ k : Int, (-2 ^ (n - 1) ≤ k ∧ k < 2 ^ (n - 1) ∧ (k - v) % 2 ^ n = 0) ↔ k = signed (toBits v n)) ∧
    (-2 ^ (n - 1) ≤ v → v < 2 ^ (n - 1) → signed (toBits v n) = v)

/-- R114: wrap-around, silent and with period `2^width`. At width 0 and above 32 it is the model's choice (U8, log 28). -/
def Obligations.ToBitsWraps : Prop :=
  ∀ (v k : Int) (n : Nat), toBits (v + k * 2 ^ n) n = toBits v n

/-- R115: a negative value in range has leading bit 1 and is the two's complement; a non-negative one below `2^(n-1)` is its
plain numeral with leading bit 0; one in `2^(n-1) .. 2^n - 1` is its plain numeral and reads back negative. At
widths above 32 it is the model's choice (U8, log 28). -/
def Obligations.ToBitsSigns : Prop :=
  ∀ (v : Int) (n : Nat), 1 ≤ n →
    (0 < v → v ≤ 2 ^ (n - 1) →
      (toBits (-v) n).getLsbD (n - 1) = true ∧ toBits (-v) n = toBits (2 ^ n - v) n) ∧
    (0 ≤ v → v < 2 ^ (n - 1) → ((toBits v n).toNat : Int) = v ∧ (toBits v n).getLsbD (n - 1) = false) ∧
    (2 ^ (n - 1) ≤ v → v < 2 ^ n → ((toBits v n).toNat : Int) = v ∧ signed (toBits v n) < 0)

/-- R116: a bit of the result does not depend on the width. At widths above 32 it is the model's choice (U8, log 28). -/
def Obligations.ToBitsSlicesAgree : Prop :=
  ∀ (v : Int) (n m k : Nat), k < n → k < m → (toBits v n).getLsbD k = (toBits v m).getLsbD k

/-! ## Packers -/

/-- R157, R70: every packer places its fields at the fixed positions, and the sign bit of the encoded immediate at bit 31. -/
def Obligations.PackersUseFixedPositions : Prop :=
  ∀ (op : Opcode) (f3 : Funct3) (f7 : Funct7) (rd rs1 rs2 : Reg) (v : Int),
    (let w := packR op f3 f7 rd rs1 rs2
     w.extractLsb 6 0 = op ∧ w.extractLsb 11 7 = rd ∧ w.extractLsb 14 12 = f3 ∧ w.extractLsb 19 15 = rs1 ∧
       w.extractLsb 24 20 = rs2 ∧ w.extractLsb 31 25 = f7) ∧
    (let w := packI op f3 rd rs1 v
     w.extractLsb 6 0 = op ∧ w.extractLsb 11 7 = rd ∧ w.extractLsb 14 12 = f3 ∧ w.extractLsb 19 15 = rs1 ∧
       w.getLsbD 31 = (toBits v 12).getLsbD 11) ∧
    (let w := packS op f3 rs1 rs2 v
     w.extractLsb 6 0 = op ∧ w.extractLsb 14 12 = f3 ∧ w.extractLsb 19 15 = rs1 ∧ w.extractLsb 24 20 = rs2 ∧
       w.getLsbD 31 = (toBits v 12).getLsbD 11) ∧
    (let w := packSB op f3 rs1 rs2 v
     w.extractLsb 6 0 = op ∧ w.extractLsb 14 12 = f3 ∧ w.extractLsb 19 15 = rs1 ∧ w.extractLsb 24 20 = rs2 ∧
       w.getLsbD 31 = (toBits v 13).getLsbD 12) ∧
    (let w := packU op rd v
     w.extractLsb 6 0 = op ∧ w.extractLsb 11 7 = rd ∧ w.getLsbD 31 = (toBits v 20).getLsbD 19) ∧
    (let w := packUJ op rd v
     w.extractLsb 6 0 = op ∧ w.extractLsb 11 7 = rd ∧ w.getLsbD 31 = (toBits v 21).getLsbD 20)

/-- R158: two commands of one format give the same word exactly when they agree on the fields and on the immediate bits the
format uses. -/
def Obligations.PackersUseExactlyTheirBits : Prop :=
  ∀ (op op' : Opcode) (f3 f3' : Funct3) (f7 f7' : Funct7) (rd rd' rs1 rs1' rs2 rs2' : Reg) (v v' : ImmPort),
    (packR op f3 f7 rd rs1 rs2 = packR op' f3' f7' rd' rs1' rs2' ↔
      op = op' ∧ f3 = f3' ∧ f7 = f7' ∧ rd = rd' ∧ rs1 = rs1' ∧ rs2 = rs2') ∧
    (packI op f3 rd rs1 v.toInt = packI op' f3' rd' rs1' v'.toInt ↔
      op = op' ∧ f3 = f3' ∧ rd = rd' ∧ rs1 = rs1' ∧ v.extractLsb 11 0 = v'.extractLsb 11 0) ∧
    (packS op f3 rs1 rs2 v.toInt = packS op' f3' rs1' rs2' v'.toInt ↔
      op = op' ∧ f3 = f3' ∧ rs1 = rs1' ∧ rs2 = rs2' ∧ v.extractLsb 11 0 = v'.extractLsb 11 0) ∧
    (packSB op f3 rs1 rs2 v.toInt = packSB op' f3' rs1' rs2' v'.toInt ↔
      op = op' ∧ f3 = f3' ∧ rs1 = rs1' ∧ rs2 = rs2' ∧ v.extractLsb 12 1 = v'.extractLsb 12 1) ∧
    (packU op rd v.toInt = packU op' rd' v'.toInt ↔
      op = op' ∧ rd = rd' ∧ v.extractLsb 19 0 = v'.extractLsb 19 0) ∧
    (packUJ op rd v.toInt = packUJ op' rd' v'.toInt ↔
      op = op' ∧ rd = rd' ∧ v.extractLsb 20 1 = v'.extractLsb 20 1)

/-- R130: PACK.R is a bijection from its 32 input bits to the 32 word bits: every word is the packing of its own fields. -/
def Obligations.PackRReachesEveryWord : Prop :=
  ∀ w : Word,
    packR (w.extractLsb 6 0) (w.extractLsb 14 12) (w.extractLsb 31 25) (w.extractLsb 11 7) (w.extractLsb 19 15)
      (w.extractLsb 24 20) = w

/-- R72: the immediate recovered from the word, and the ranges in which it is the raw immediate. The U word's (layout
D6, log 15) is stated as the upper immediate and as the unsigned 20-bit field (log 24). -/
def Obligations.RecoveredImmediates : Prop :=
  ∀ (op : Opcode) (f3 : Funct3) (rd rs1 rs2 : Reg) (v : Int),
    recoveredImm .I (packI op f3 rd rs1 v) = signed (toBits v 12) ∧
    recoveredImm .S (packS op f3 rs1 rs2 v) = signed (toBits v 12) ∧
    recoveredImm .SB (packSB op f3 rs1 rs2 v) = signed (toBits v 13) - v % 2 ∧
    upperImm (packU op rd v) = BitVec.ofInt 32 ((v % 2 ^ 20) * 4096) ∧
    recoveredImm .UJ (packUJ op rd v) = signed (toBits v 21) - v % 2 ∧
    (recoveredImm .I (packI op f3 rd rs1 v) = v ↔ -2048 ≤ v ∧ v ≤ 2047) ∧
    (recoveredImm .S (packS op f3 rs1 rs2 v) = v ↔ -2048 ≤ v ∧ v ≤ 2047) ∧
    (recoveredImm .SB (packSB op f3 rs1 rs2 v) = v ↔ -4096 ≤ v ∧ v ≤ 4094 ∧ v % 2 = 0) ∧
    (recoveredImm .U (packU op rd v) = v ↔ 0 ≤ v ∧ v ≤ 1048575) ∧
    (recoveredImm .UJ (packUJ op rd v) = v ↔ -1048576 ≤ v ∧ v ≤ 1048574 ∧ v % 2 = 0)

/-- R45: raw branch and jump immediates `2k` and `2k+1` give the same word. -/
def Obligations.OffsetBitZeroIsDropped : Prop :=
  ∀ (op : Opcode) (f3 : Funct3) (rd rs1 rs2 : Reg) (k : Int),
    packSB op f3 rs1 rs2 (2 * k) = packSB op f3 rs1 rs2 (2 * k + 1) ∧
    packUJ op rd (2 * k) = packUJ op rd (2 * k + 1)

/-! ## Multiplexer -/

/-- R160, R162, R166, R168: when ENCODE answers which status, and that an OK word is exactly the selected packer's. The order
is the pseudocode's of R160, in which `pre` 2 comes before the class, not that of R218 (log 6); `pre`, BadFormat and
NotWired are the spec's decisions D3, D2, D5; the U word is D6 (log 15). -/
def Obligations.EncodeAnswersByPriority : Prop :=
  ∀ (wired : List Format) (c : Command),
    (encodeMux wired c = .raised .unclassified ↔ c.pre = 1) ∧
    (encodeMux wired c = .raised .badRegister ↔ c.pre = 2) ∧
    (encodeMux wired c = .raised .badFormat ↔ c.pre = 3 ∨ (c.pre = 0 ∧ 6 ≤ c.fmt.toNat)) ∧
    (encodeMux wired c = .raised .notWired ↔ c.pre = 0 ∧ ∃ f, fmtCode f = c.fmt ∧ f ∉ wired) ∧
    (∀ w, encodeMux wired c = .word w ↔ c.pre = 0 ∧ ∃ f, fmtCode f = c.fmt ∧ f ∈ wired ∧ w = packWith f c)

/-- R164: when `pre` is not 0 the other fields cannot affect the result. -/
def Obligations.UpstreamStatusWins : Prop :=
  ∀ (wired : List Format) (c c' : Command), c.pre = c'.pre → c.pre ≠ 0 → encodeMux wired c = encodeMux wired c'

/-- R170, R62: fields the selected format does not use cannot affect the result. -/
def Obligations.UnusedFieldsDoNotMatter : Prop :=
  ∀ (wired : List Format) (c : Command) (f3 : Funct3) (f7 : Funct7) (rd rs1 rs2 : Reg) (v : ImmPort), c.pre = 0 →
    (c.fmt = 0 → encodeMux wired { c with imm := v } = encodeMux wired c) ∧
    (c.fmt = 1 → encodeMux wired { c with rs2 := rs2, funct7 := f7 } = encodeMux wired c) ∧
    (c.fmt = 2 → encodeMux wired { c with rd := rd, funct7 := f7 } = encodeMux wired c) ∧
    (c.fmt = 3 → encodeMux wired { c with rd := rd, funct7 := f7 } = encodeMux wired c) ∧
    (c.fmt = 4 →
      encodeMux wired { c with rs1 := rs1, rs2 := rs2, funct3 := f3, funct7 := f7 } = encodeMux wired c) ∧
    (c.fmt = 5 →
      encodeMux wired { c with rs1 := rs1, rs2 := rs2, funct3 := f3, funct7 := f7 } = encodeMux wired c)

/-- R210: the status codes (numbers: D13). -/
def Obligations.StatusCodesAreTheirNumbers : Prop :=
  statusCode .ok = 0 ∧ statusCode .unclassified = 1 ∧ statusCode .badRegister = 2 ∧ statusCode .badFormat = 3 ∧
    statusCode .notWired = 4 ∧ statusCode .ioUnavailable = 5 ∧ ∀ a b : Status, statusCode a = statusCode b → a = b

/-! ## Derived views of RECORDS -/

/-- R47, R41, R44: in a sound state the bytes of RECORDS stand at strictly rising addresses, four for each record, and in
little-endian order the byte at the record's address is word bits 7:0, the next bits 15:8 and so on; in big-endian order the
other way round (D12, log 20). -/
def Obligations.ImageHoldsEachWordOnce : Prop :=
  ∀ s : State, s.Inv →
    ((image s).map Prod.fst).Pairwise (· < ·) ∧ (image s).length = 4 * s.records.length ∧
    ∀ r ∈ s.records,
      (s.cfg.byteOrder = .little →
        (r.addr, r.word.extractLsb 7 0) ∈ image s ∧ (r.addr + 1, r.word.extractLsb 15 8) ∈ image s ∧
        (r.addr + 2, r.word.extractLsb 23 16) ∈ image s ∧ (r.addr + 3, r.word.extractLsb 31 24) ∈ image s) ∧
      (s.cfg.byteOrder = .big →
        (r.addr, r.word.extractLsb 31 24) ∈ image s ∧ (r.addr + 1, r.word.extractLsb 23 16) ∈ image s ∧
        (r.addr + 2, r.word.extractLsb 15 8) ∈ image s ∧ (r.addr + 3, r.word.extractLsb 7 0) ∈ image s)
end

