-- ==== Sys2Proof/Laws/PerInstr.lean ====
section
/-! SUPPORT. Facts about every instruction as syntax, one lemma per constructor. -/

namespace Sys2Proof.Laws.TableRow
open Sys2Proof.Machine

/-- Where an instruction is a Catalog row: its row gives it back, the row's class is its own and its operands', and the
command it gives the core is the one of the row's fixed fields. -/
def Statement (i : Instr) : Prop :=
  ∀ m o, rowOf i = some (m, o) →
    instrOfRow m o = some i ∧ i.format? = some (mnemonicFixed m).format ∧ o.format = (mnemonicFixed m).format ∧
      commandOfFields (mnemonicFixed m) o = some (commandOf i)

theorem packR (op : Opcode) (f3 : Funct3) (f7 : Funct7) (rd : Reg) (rs1 : Reg) (rs2 : Reg) : Statement (.packR op f3 f7 rd rs1 rs2) := by
  intro m o h; cases h

theorem packI (op : Opcode) (f3 : Funct3) (rd : Reg) (rs1 : Reg) (imm : Int) : Statement (.packI op f3 rd rs1 imm) := by
  intro m o h; cases h

theorem packS (op : Opcode) (f3 : Funct3) (rs1 : Reg) (rs2 : Reg) (imm : Int) : Statement (.packS op f3 rs1 rs2 imm) := by
  intro m o h; cases h

theorem packSB (op : Opcode) (f3 : Funct3) (rs1 : Reg) (rs2 : Reg) (imm : Int) : Statement (.packSB op f3 rs1 rs2 imm) := by
  intro m o h; cases h

theorem packU (op : Opcode) (rd : Reg) (imm : Int) : Statement (.packU op rd imm) := by
  intro m o h; cases h

theorem packUJ (op : Opcode) (rd : Reg) (imm : Int) : Statement (.packUJ op rd imm) := by
  intro m o h; cases h

theorem reservedFmt6 : Statement .reservedFmt6 := by
  intro m o h; cases h

theorem reservedFmt7 : Statement .reservedFmt7 := by
  intro m o h; cases h

theorem add (rd : Reg) (rs1 : Reg) (rs2 : Reg) : Statement (.add rd rs1 rs2) := by
  intro m o h; cases h; exact ⟨rfl, rfl, rfl, rfl⟩

theorem sub (rd : Reg) (rs1 : Reg) (rs2 : Reg) : Statement (.sub rd rs1 rs2) := by
  intro m o h; cases h; exact ⟨rfl, rfl, rfl, rfl⟩

theorem sll (rd : Reg) (rs1 : Reg) (rs2 : Reg) : Statement (.sll rd rs1 rs2) := by
  intro m o h; cases h; exact ⟨rfl, rfl, rfl, rfl⟩

theorem slt (rd : Reg) (rs1 : Reg) (rs2 : Reg) : Statement (.slt rd rs1 rs2) := by
  intro m o h; cases h; exact ⟨rfl, rfl, rfl, rfl⟩

theorem sltu (rd : Reg) (rs1 : Reg) (rs2 : Reg) : Statement (.sltu rd rs1 rs2) := by
  intro m o h; cases h; exact ⟨rfl, rfl, rfl, rfl⟩

theorem xor (rd : Reg) (rs1 : Reg) (rs2 : Reg) : Statement (.xor rd rs1 rs2) := by
  intro m o h; cases h; exact ⟨rfl, rfl, rfl, rfl⟩

theorem srl (rd : Reg) (rs1 : Reg) (rs2 : Reg) : Statement (.srl rd rs1 rs2) := by
  intro m o h; cases h; exact ⟨rfl, rfl, rfl, rfl⟩

theorem sra (rd : Reg) (rs1 : Reg) (rs2 : Reg) : Statement (.sra rd rs1 rs2) := by
  intro m o h; cases h; exact ⟨rfl, rfl, rfl, rfl⟩

theorem or (rd : Reg) (rs1 : Reg) (rs2 : Reg) : Statement (.or rd rs1 rs2) := by
  intro m o h; cases h; exact ⟨rfl, rfl, rfl, rfl⟩

theorem and (rd : Reg) (rs1 : Reg) (rs2 : Reg) : Statement (.and rd rs1 rs2) := by
  intro m o h; cases h; exact ⟨rfl, rfl, rfl, rfl⟩

theorem addi (rd : Reg) (rs1 : Reg) (imm : Int) : Statement (.addi rd rs1 imm) := by
  intro m o h; cases h; exact ⟨rfl, rfl, rfl, rfl⟩

theorem slti (rd : Reg) (rs1 : Reg) (imm : Int) : Statement (.slti rd rs1 imm) := by
  intro m o h; cases h; exact ⟨rfl, rfl, rfl, rfl⟩

theorem sltiu (rd : Reg) (rs1 : Reg) (imm : Int) : Statement (.sltiu rd rs1 imm) := by
  intro m o h; cases h; exact ⟨rfl, rfl, rfl, rfl⟩

theorem xori (rd : Reg) (rs1 : Reg) (imm : Int) : Statement (.xori rd rs1 imm) := by
  intro m o h; cases h; exact ⟨rfl, rfl, rfl, rfl⟩

theorem ori (rd : Reg) (rs1 : Reg) (imm : Int) : Statement (.ori rd rs1 imm) := by
  intro m o h; cases h; exact ⟨rfl, rfl, rfl, rfl⟩

theorem andi (rd : Reg) (rs1 : Reg) (imm : Int) : Statement (.andi rd rs1 imm) := by
  intro m o h; cases h; exact ⟨rfl, rfl, rfl, rfl⟩

theorem lb (rd : Reg) (rs1 : Reg) (imm : Int) : Statement (.lb rd rs1 imm) := by
  intro m o h; cases h; exact ⟨rfl, rfl, rfl, rfl⟩

theorem lh (rd : Reg) (rs1 : Reg) (imm : Int) : Statement (.lh rd rs1 imm) := by
  intro m o h; cases h; exact ⟨rfl, rfl, rfl, rfl⟩

theorem lw (rd : Reg) (rs1 : Reg) (imm : Int) : Statement (.lw rd rs1 imm) := by
  intro m o h; cases h; exact ⟨rfl, rfl, rfl, rfl⟩

theorem lbu (rd : Reg) (rs1 : Reg) (imm : Int) : Statement (.lbu rd rs1 imm) := by
  intro m o h; cases h; exact ⟨rfl, rfl, rfl, rfl⟩

theorem lhu (rd : Reg) (rs1 : Reg) (imm : Int) : Statement (.lhu rd rs1 imm) := by
  intro m o h; cases h; exact ⟨rfl, rfl, rfl, rfl⟩

theorem jalr (rd : Reg) (rs1 : Reg) (imm : Int) : Statement (.jalr rd rs1 imm) := by
  intro m o h; cases h; exact ⟨rfl, rfl, rfl, rfl⟩

theorem sb (rs2 : Reg) (rs1 : Reg) (imm : Int) : Statement (.sb rs2 rs1 imm) := by
  intro m o h; cases h; exact ⟨rfl, rfl, rfl, rfl⟩

theorem sh (rs2 : Reg) (rs1 : Reg) (imm : Int) : Statement (.sh rs2 rs1 imm) := by
  intro m o h; cases h; exact ⟨rfl, rfl, rfl, rfl⟩

theorem sw (rs2 : Reg) (rs1 : Reg) (imm : Int) : Statement (.sw rs2 rs1 imm) := by
  intro m o h; cases h; exact ⟨rfl, rfl, rfl, rfl⟩

theorem beq (rs1 : Reg) (rs2 : Reg) (imm : Int) : Statement (.beq rs1 rs2 imm) := by
  intro m o h; cases h; exact ⟨rfl, rfl, rfl, rfl⟩

theorem bne (rs1 : Reg) (rs2 : Reg) (imm : Int) : Statement (.bne rs1 rs2 imm) := by
  intro m o h; cases h; exact ⟨rfl, rfl, rfl, rfl⟩

theorem blt (rs1 : Reg) (rs2 : Reg) (imm : Int) : Statement (.blt rs1 rs2 imm) := by
  intro m o h; cases h; exact ⟨rfl, rfl, rfl, rfl⟩

theorem bge (rs1 : Reg) (rs2 : Reg) (imm : Int) : Statement (.bge rs1 rs2 imm) := by
  intro m o h; cases h; exact ⟨rfl, rfl, rfl, rfl⟩

theorem bltu (rs1 : Reg) (rs2 : Reg) (imm : Int) : Statement (.bltu rs1 rs2 imm) := by
  intro m o h; cases h; exact ⟨rfl, rfl, rfl, rfl⟩

theorem bgeu (rs1 : Reg) (rs2 : Reg) (imm : Int) : Statement (.bgeu rs1 rs2 imm) := by
  intro m o h; cases h; exact ⟨rfl, rfl, rfl, rfl⟩

theorem lui (rd : Reg) (imm : Int) : Statement (.lui rd imm) := by
  intro m o h; cases h; exact ⟨rfl, rfl, rfl, rfl⟩

theorem auipc (rd : Reg) (imm : Int) : Statement (.auipc rd imm) := by
  intro m o h; cases h; exact ⟨rfl, rfl, rfl, rfl⟩

theorem jal (rd : Reg) (imm : Int) : Statement (.jal rd imm) := by
  intro m o h; cases h; exact ⟨rfl, rfl, rfl, rfl⟩

/-- The statement holds of every instruction. -/
theorem all (i : Instr) : Statement i := by
  cases i
  case packR => apply packR
  case packI => apply packI
  case packS => apply packS
  case packSB => apply packSB
  case packU => apply packU
  case packUJ => apply packUJ
  case reservedFmt6 => exact reservedFmt6
  case reservedFmt7 => exact reservedFmt7
  case add => apply add
  case sub => apply sub
  case sll => apply sll
  case slt => apply slt
  case sltu => apply sltu
  case xor => apply xor
  case srl => apply srl
  case sra => apply sra
  case or => apply or
  case and => apply and
  case addi => apply addi
  case slti => apply slti
  case sltiu => apply sltiu
  case xori => apply xori
  case ori => apply ori
  case andi => apply andi
  case lb => apply lb
  case lh => apply lh
  case lw => apply lw
  case lbu => apply lbu
  case lhu => apply lhu
  case jalr => apply jalr
  case sb => apply sb
  case sh => apply sh
  case sw => apply sw
  case beq => apply beq
  case bne => apply bne
  case blt => apply blt
  case bge => apply bge
  case bltu => apply bltu
  case bgeu => apply bgeu
  case lui => apply lui
  case auipc => apply auipc
  case jal => apply jal

end Sys2Proof.Laws.TableRow
end

