-- ==== Sys2Proof/Laws/State.lean ====
section
/-! SUPPORT. What each update of the state leaves in each field. -/

namespace Sys2Proof.Machine

/-! `withParams` -/

@[simp] theorem withParams_cfg (d : LineDriver) (p : Params) : (d.withParams p).cfg = p := rfl
@[simp] theorem withParams_toLineDriver (d : LineDriver) (p : Params) : (d.withParams p).toLineDriver = d := rfl
@[simp] theorem toLineDriver_withParams (s : State) : s.toLineDriver.withParams s.cfg = s := rfl

/-! `bindLabel` -/

@[simp] theorem bindLabel_cfg (name : Text) (s : State) : (bindLabel name s).cfg = s.cfg := rfl
@[simp] theorem bindLabel_phase (name : Text) (s : State) : (bindLabel name s).phase = s.phase := rfl
@[simp] theorem bindLabel_input (name : Text) (s : State) : (bindLabel name s).input = s.input := rfl
@[simp] theorem bindLabel_addr (name : Text) (s : State) : (bindLabel name s).addr = s.addr := rfl
@[simp] theorem bindLabel_labels (name : Text) (s : State) : (bindLabel name s).labels = s.labels ++ [(name, s.addr)] := rfl
@[simp] theorem bindLabel_retained (name : Text) (s : State) : (bindLabel name s).retained = s.retained := rfl
@[simp] theorem bindLabel_cursor (name : Text) (s : State) : (bindLabel name s).cursor = s.cursor := rfl
@[simp] theorem bindLabel_records (name : Text) (s : State) : (bindLabel name s).records = s.records := rfl
@[simp] theorem bindLabel_diag (name : Text) (s : State) : (bindLabel name s).diag = s.diag := rfl
@[simp] theorem bindLabel_ioAvailable (name : Text) (s : State) : (bindLabel name s).ioAvailable = s.ioAvailable := rfl

/-! `assignAddress` -/

@[simp] theorem assignAddress_cfg (it : Item) (s : State) : (assignAddress it s).cfg = s.cfg := rfl
@[simp] theorem assignAddress_phase (it : Item) (s : State) : (assignAddress it s).phase = s.phase := rfl
@[simp] theorem assignAddress_input (it : Item) (s : State) : (assignAddress it s).input = s.input := rfl
@[simp] theorem assignAddress_addr (it : Item) (s : State) : (assignAddress it s).addr = s.addr + addrStep := rfl
@[simp] theorem assignAddress_labels (it : Item) (s : State) : (assignAddress it s).labels = s.labels := rfl
@[simp] theorem assignAddress_retained (it : Item) (s : State) : (assignAddress it s).retained = s.retained ++ [⟨s.addr, it⟩] := rfl
@[simp] theorem assignAddress_cursor (it : Item) (s : State) : (assignAddress it s).cursor = s.cursor := rfl
@[simp] theorem assignAddress_records (it : Item) (s : State) : (assignAddress it s).records = s.records := rfl
@[simp] theorem assignAddress_diag (it : Item) (s : State) : (assignAddress it s).diag = s.diag := rfl
@[simp] theorem assignAddress_ioAvailable (it : Item) (s : State) : (assignAddress it s).ioAvailable = s.ioAvailable := rfl

/-! `endPass1` -/

@[simp] theorem endPass1_cfg (s : State) : (endPass1 s).cfg = s.cfg := rfl
@[simp] theorem endPass1_phase (s : State) : (endPass1 s).phase = .pass2 := rfl
@[simp] theorem endPass1_input (s : State) : (endPass1 s).input = s.input := rfl
@[simp] theorem endPass1_addr (s : State) : (endPass1 s).addr = s.addr := rfl
@[simp] theorem endPass1_labels (s : State) : (endPass1 s).labels = s.labels := rfl
@[simp] theorem endPass1_retained (s : State) : (endPass1 s).retained = s.retained := rfl
@[simp] theorem endPass1_cursor (s : State) : (endPass1 s).cursor = s.cursor := rfl
@[simp] theorem endPass1_records (s : State) : (endPass1 s).records = s.records := rfl
@[simp] theorem endPass1_diag (s : State) : (endPass1 s).diag = s.diag := rfl
@[simp] theorem endPass1_ioAvailable (s : State) : (endPass1 s).ioAvailable = s.ioAvailable := rfl

/-! `endRun` -/

@[simp] theorem endRun_cfg (s : State) : (endRun s).cfg = s.cfg := rfl
@[simp] theorem endRun_phase (s : State) : (endRun s).phase = .done := rfl
@[simp] theorem endRun_input (s : State) : (endRun s).input = s.input := rfl
@[simp] theorem endRun_addr (s : State) : (endRun s).addr = s.addr := rfl
@[simp] theorem endRun_labels (s : State) : (endRun s).labels = s.labels := rfl
@[simp] theorem endRun_retained (s : State) : (endRun s).retained = s.retained := rfl
@[simp] theorem endRun_cursor (s : State) : (endRun s).cursor = s.cursor := rfl
@[simp] theorem endRun_records (s : State) : (endRun s).records = s.records := rfl
@[simp] theorem endRun_diag (s : State) : (endRun s).diag = s.diag := rfl
@[simp] theorem endRun_ioAvailable (s : State) : (endRun s).ioAvailable = s.ioAvailable := rfl

/-! `emitRecord` -/

@[simp] theorem emitRecord_cfg (r : Retained) (w : Word) (s : State) : (emitRecord r w s).cfg = s.cfg := rfl
@[simp] theorem emitRecord_phase (r : Retained) (w : Word) (s : State) : (emitRecord r w s).phase = s.phase := rfl
@[simp] theorem emitRecord_input (r : Retained) (w : Word) (s : State) : (emitRecord r w s).input = s.input := rfl
@[simp] theorem emitRecord_addr (r : Retained) (w : Word) (s : State) : (emitRecord r w s).addr = s.addr := rfl
@[simp] theorem emitRecord_labels (r : Retained) (w : Word) (s : State) : (emitRecord r w s).labels = s.labels := rfl
@[simp] theorem emitRecord_retained (r : Retained) (w : Word) (s : State) : (emitRecord r w s).retained = s.retained := rfl
@[simp] theorem emitRecord_cursor (r : Retained) (w : Word) (s : State) : (emitRecord r w s).cursor = s.cursor + 1 := rfl
@[simp] theorem emitRecord_records (r : Retained) (w : Word) (s : State) : (emitRecord r w s).records = s.records ++ [⟨r.addr, w, r.item.line⟩] := rfl
@[simp] theorem emitRecord_diag (r : Retained) (w : Word) (s : State) : (emitRecord r w s).diag = s.diag := rfl
@[simp] theorem emitRecord_ioAvailable (r : Retained) (w : Word) (s : State) : (emitRecord r w s).ioAvailable = s.ioAvailable := rfl

/-! `raiseStatus` -/

@[simp] theorem raiseStatus_cfg (r : Retained) (e : Status) (s : State) : (raiseStatus r e s).cfg = s.cfg := rfl
@[simp] theorem raiseStatus_phase (r : Retained) (e : Status) (s : State) : (raiseStatus r e s).phase = s.phase := rfl
@[simp] theorem raiseStatus_input (r : Retained) (e : Status) (s : State) : (raiseStatus r e s).input = s.input := rfl
@[simp] theorem raiseStatus_addr (r : Retained) (e : Status) (s : State) : (raiseStatus r e s).addr = s.addr := rfl
@[simp] theorem raiseStatus_labels (r : Retained) (e : Status) (s : State) : (raiseStatus r e s).labels = s.labels := rfl
@[simp] theorem raiseStatus_retained (r : Retained) (e : Status) (s : State) : (raiseStatus r e s).retained = s.retained := rfl
@[simp] theorem raiseStatus_cursor (r : Retained) (e : Status) (s : State) : (raiseStatus r e s).cursor = s.cursor + 1 := rfl
@[simp] theorem raiseStatus_records (r : Retained) (e : Status) (s : State) : (raiseStatus r e s).records = s.records := rfl
@[simp] theorem raiseStatus_diag (r : Retained) (e : Status) (s : State) : (raiseStatus r e s).diag = s.diag ++ [⟨e, r.addr, r.item.line⟩] := rfl
@[simp] theorem raiseStatus_ioAvailable (r : Retained) (e : Status) (s : State) : (raiseStatus r e s).ioAvailable = s.ioAvailable := rfl

/-! `State.start` -/

@[simp] theorem start_cfg (p : Params) (items : List Item) : (State.start p items).cfg = p := rfl
@[simp] theorem start_phase (p : Params) (items : List Item) : (State.start p items).phase = .pass1 := rfl
@[simp] theorem start_input (p : Params) (items : List Item) : (State.start p items).input = items := rfl
@[simp] theorem start_addr (p : Params) (items : List Item) : (State.start p items).addr = 0 := rfl
@[simp] theorem start_labels (p : Params) (items : List Item) : (State.start p items).labels = [] := rfl
@[simp] theorem start_retained (p : Params) (items : List Item) : (State.start p items).retained = [] := rfl
@[simp] theorem start_cursor (p : Params) (items : List Item) : (State.start p items).cursor = 0 := rfl
@[simp] theorem start_records (p : Params) (items : List Item) : (State.start p items).records = [] := rfl
@[simp] theorem start_diag (p : Params) (items : List Item) : (State.start p items).diag = [] := rfl
@[simp] theorem start_ioAvailable (p : Params) (items : List Item) : (State.start p items).ioAvailable = true := rfl

/-! `finishLine` -/

@[simp] theorem finishLine_cfg (r : Retained) (res : Result) (s : State) : (finishLine r res s).cfg = s.cfg := by
  cases res <;> rfl
@[simp] theorem finishLine_phase (r : Retained) (res : Result) (s : State) : (finishLine r res s).phase = s.phase := by
  cases res <;> rfl
@[simp] theorem finishLine_input (r : Retained) (res : Result) (s : State) : (finishLine r res s).input = s.input := by
  cases res <;> rfl
@[simp] theorem finishLine_addr (r : Retained) (res : Result) (s : State) : (finishLine r res s).addr = s.addr := by
  cases res <;> rfl
@[simp] theorem finishLine_labels (r : Retained) (res : Result) (s : State) : (finishLine r res s).labels = s.labels := by
  cases res <;> rfl
@[simp] theorem finishLine_retained (r : Retained) (res : Result) (s : State) : (finishLine r res s).retained = s.retained := by
  cases res <;> rfl
@[simp] theorem finishLine_ioAvailable (r : Retained) (res : Result) (s : State) : (finishLine r res s).ioAvailable = s.ioAvailable := by
  cases res <;> rfl
@[simp] theorem finishLine_cursor (r : Retained) (res : Result) (s : State) :
    (finishLine r res s).cursor = s.cursor + 1 := by
  cases res <;> rfl
@[simp] theorem finishLine_word (r : Retained) (w : Word) (s : State) :
    finishLine r (.word w) s = emitRecord r w s := rfl
@[simp] theorem finishLine_raised (r : Retained) (e : Status) (s : State) :
    finishLine r (.raised e) s = raiseStatus r e s := rfl

/-! `withFetchWord` -/

@[simp] theorem withFetchWord_cfg (s : State) (nbits w : Nat) : (s.withFetchWord nbits w).cfg = s.cfg := rfl
@[simp] theorem withFetchWord_phase (s : State) (nbits w : Nat) : (s.withFetchWord nbits w).phase = .pass2 := rfl
@[simp] theorem withFetchWord_ioAvailable (s : State) (nbits w : Nat) :
    (s.withFetchWord nbits w).ioAvailable = true := rfl

/-- The line a table word is placed at is the one pass 2 is at. -/
@[simp] theorem withFetchWord_current (s : State) (nbits w : Nat) :
    (s.withFetchWord nbits w).current = some ⟨s.addr, itemOfTableWord nbits w⟩ := by
  simp [State.current, State.withFetchWord]

end Sys2Proof.Machine
end

