-- ==== Sys2Proof/Laws/Ops.lean ====
section
/-! SUPPORT. What the shared operations, `exec` and `step` can do, each said once. -/

namespace Sys2Proof.Machine

/-- `finish` on a line. -/
theorem finish_of_current {s : State} {r : Retained} (res : Result) (h : s.current = some r) :
    finish res s = .next (finishLine r res s) := by
  simp [finish, h]

/-- Everything `finish` can do. -/
theorem finish_eq_next {res : Result} {s t : State} :
    finish res s = .next t ↔ ∃ r, s.current = some r ∧ t = finishLine r res s := by
  unfold finish
  cases s.current <;> simp [eq_comm]

/-- `finish` refuses nothing. -/
theorem finish_ne_refused (res : Result) (s : State) (e : Refusal) : finish res s ≠ .refused e := by
  unfold finish
  cases s.current <;> simp

/-- Every instruction runs the command it gives the core: the arms of `exec` and the fixed fields of R99 agree. -/
theorem exec_eq_runCommand (i : Instr) (s : State) : exec i s = runCommand (commandOf i) s := by
  cases i <;> rfl

/-- Every instruction on a line: ENCODE's answer, recorded or raised. -/
theorem exec_of_current {s : State} {r : Retained} (i : Instr) (h : s.current = some r) :
    exec i s = .next (finishLine r (encodeMux s.cfg.wired (commandOf i)) s) := by
  rw [exec_eq_runCommand, runCommand, finish_of_current _ h]

/-- Everything an instruction can do. -/
theorem exec_eq_next {i : Instr} {s t : State} :
    exec i s = .next t ↔
      ∃ r, s.current = some r ∧ t = finishLine r (encodeMux s.cfg.wired (commandOf i)) s := by
  rw [exec_eq_runCommand, runCommand, finish_eq_next]

/-- Pass 2 on a line is the line's result, recorded or raised. -/
theorem encodeLine_of_result {s : State} {r : Retained} {res : Result} (h : s.current = some r)
    (hres : lineResult s.cfg r.item = .ok res) : encodeLine r.item s = .next (finishLine r res s) := by
  unfold lineResult at hres
  unfold encodeLine
  split at hres <;> simp_all [exec_of_current, finish_of_current]

/-- Pass 2 on a line outside the contract. -/
theorem encodeLine_of_reject {s : State} {it : Item} {why : Reject}
    (hres : lineResult s.cfg it = .error why) : encodeLine it s = .refused (.line why) := by
  unfold lineResult at hres
  unfold encodeLine
  split at hres <;> simp_all

/-- Pass 1 on a line keeps the parameters. -/
theorem stepPass1_cfg {s t : State} (h : stepPass1 s = .next t) : t.cfg = s.cfg := by
  unfold stepPass1 readLine at h
  split at h
  · cases h; rfl
  · split at h
    · cases h; rfl
    · split at h
      · cases h; rfl
      · cases h

/-- Pass 2 on a line keeps the parameters. -/
theorem stepPass2_cfg {s t : State} (h : stepPass2 s = .next t) : t.cfg = s.cfg := by
  unfold stepPass2 at h
  split at h
  · unfold encodeLine at h
    split at h
    · obtain ⟨r, -, rfl⟩ := exec_eq_next.1 h
      simp
    · obtain ⟨r, -, rfl⟩ := finish_eq_next.1 h
      simp
    · cases h
  · cases h; rfl

/-- Taking the parameters off an outcome that keeps them, and putting them back. -/
theorem withParams_withoutParams {p : Params} {o : Outcome} (h : ∀ t, o = .next t → t.cfg = p) :
    withParams p (withoutParams o) = o := by
  cases o with
  | next t => rw [← h t rfl]; rfl
  | fault r => rfl
  | refused r => rfl

/-- A step, said on the state as a whole. -/
theorem step_eq (s : State) :
    step s =
      if s.ioAvailable then
        match s.phase with
        | .pass1 => stepPass1 s
        | .pass2 => stepPass2 s
        | .done => .next s
      else .fault .ioUnavailable := by
  unfold step stepWith
  cases s.ioAvailable with
  | false => rfl
  | true =>
    cases s.phase with
    | pass1 => exact withParams_withoutParams fun t h => stepPass1_cfg (s := s) h
    | pass2 => exact withParams_withoutParams fun t h => stepPass2_cfg (s := s) h
    | done => rfl

/-- What a step can do, if it answers a next state: one case for each kind of line and each end of a pass. -/
theorem step_cases {s t : State} (h : step s = .next t) :
    s.ioAvailable = true ∧
    ((s.phase = .pass1 ∧ s.input = [] ∧ t = endPass1 s) ∨
     (∃ it rest name, s.phase = .pass1 ∧ s.input = it :: rest ∧ itemLabel it = some name ∧
       t = bindLabel name { s with input := rest }) ∨
     (∃ it rest, s.phase = .pass1 ∧ s.input = it :: rest ∧ itemLabel it = none ∧
       addrFits s.cfg.addrW s.addr = true ∧ t = assignAddress it { s with input := rest }) ∨
     (∃ r res, s.phase = .pass2 ∧ s.current = some r ∧ lineResult s.cfg r.item = .ok res ∧
       t = finishLine r res s) ∨
     (s.phase = .pass2 ∧ s.current = none ∧ t = endRun s) ∨
     (s.phase = .done ∧ t = s)) := by
  rw [step_eq] at h
  split at h
  next hio =>
    refine ⟨hio, ?_⟩
    split at h
    next hp =>
      unfold stepPass1 at h
      split at h
      next hi => exact .inl ⟨hp, hi, (Host.Outcome.next.inj h).symm⟩
      next it rest hi =>
        unfold readLine at h
        split at h
        next name hl => exact .inr (.inl ⟨it, rest, name, hp, hi, hl, (Host.Outcome.next.inj h).symm⟩)
        next hl =>
          split at h
          next hf => exact .inr (.inr (.inl ⟨it, rest, hp, hi, hl, hf, (Host.Outcome.next.inj h).symm⟩))
          next => cases h
    next hp =>
      unfold stepPass2 at h
      split at h
      next r hc =>
        cases hr : lineResult s.cfg r.item with
        | error why => rw [encodeLine_of_reject hr] at h; cases h
        | ok res =>
          rw [encodeLine_of_result hc hr] at h
          exact .inr (.inr (.inr (.inl ⟨r, res, hp, hc, hr, (Host.Outcome.next.inj h).symm⟩)))
      next hc => exact .inr (.inr (.inr (.inr (.inl ⟨hp, hc, (Host.Outcome.next.inj h).symm⟩))))
    next hp => exact .inr (.inr (.inr (.inr (.inr ⟨hp, (Host.Outcome.next.inj h).symm⟩))))
  next => cases h

/-- A step of pass 2 on a line whose result is known. -/
theorem step_of_result {s : State} {r : Retained} {res : Result} (hio : s.ioAvailable = true)
    (hp : s.phase = .pass2) (hc : s.current = some r) (hres : lineResult s.cfg r.item = .ok res) :
    step s = .next (finishLine r res s) := by
  simp [step_eq, hio, hp, stepPass2, hc, encodeLine_of_result hc hres]

/-- The statuses ENCODE raises end one line (R210). -/
theorem encodeMux_raised {wired : List Format} {c : Command} {e : Status}
    (h : encodeMux wired c = .raised e) : isLineError e = true := by
  revert h
  unfold encodeMux
  split
  · rintro ⟨⟩; rfl
  split
  · rintro ⟨⟩; rfl
  split
  · rintro ⟨⟩; rfl
  split
  · rintro ⟨⟩; rfl
  split
  · simp
  · rintro ⟨⟩; rfl

/-- What a label token is: the name with `:` behind it (R76, R181). -/
theorem labelToken_eq_some {t name : Text} :
    labelToken t = some name ↔ t = name ++ [':'] ∧ isIdentifier name = true := by
  unfold labelToken
  constructor
  · intro h
    split at h
    · rename_i hc
      injection h with h
      subst h
      exact ⟨(List.dropLast_append_getLast? _ hc.1).symm, hc.2⟩
    · cases h
  · rintro ⟨rfl, hi⟩
    simp [hi]

/-- The statuses the decoder ends a command with end one line (R210). -/
theorem decodeItem_fails {p : Params} {it : Item} {e : Status} (h : decodeItem p it = .fails e) :
    isLineError e = true := by
  cases it with
  | port b l =>
    revert h
    simp only [decodeItem, decodeCommand]
    split
    · rintro ⟨⟩; rfl
    split
    · rintro ⟨⟩; rfl
    split
    · rintro ⟨⟩; rfl
    split <;> try simp
    split <;> simp
  | text l =>
    revert h
    simp only [decodeItem, decodeLine]
    repeat' split
    all_goals first | simp; done | (rintro ⟨⟩; rfl)

/-- A line's result raises only statuses that end one line (R210). -/
theorem lineResult_raised {p : Params} {it : Item} {e : Status} (h : lineResult p it = .ok (.raised e)) :
    isLineError e = true := by
  unfold lineResult at h
  split at h
  · injection h with h; exact encodeMux_raised h
  · rename_i hd
    injection h with h
    injection h with h
    exact decodeItem_fails (h ▸ hd)
  · cases h

end Sys2Proof.Machine
end

