-- ==== Sys2Proof/Laws/Packers.lean ====
section
/-! SUPPORT. The Field Encoder as a modulus, and every bit of every packer's word. -/

namespace Sys2Proof.Machine

/-- `toBits` is the two's-complement pattern of an integer. -/
theorem toBits_eq_ofInt (v : Int) (n : Nat) : toBits v n = BitVec.ofInt n v := by
  apply BitVec.eq_of_toNat_eq
  have hpos : (0 : Int) < 2 ^ n := by positivity
  have h1 := Int.emod_nonneg v (ne_of_gt hpos)
  have h2 := Int.emod_lt_of_pos v hpos
  simp only [toBits, BitVec.toNat_ofNat, BitVec.toNat_ofInt]
  rw [Nat.mod_eq_of_lt]
  · push_cast; rfl
  · zify; rw [Int.toNat_of_nonneg h1]; exact h2

/-- The port holds the low 32 bits of a raw immediate, and every packer takes at most as many: the port loses nothing. -/
theorem toBits_of_port (v : Int) {n : Nat} (h : n ≤ 32) : toBits (toBits v 32).toInt n = toBits v n := by
  simp only [toBits_eq_ofInt]
  apply BitVec.eq_of_toInt_eq
  simp only [BitVec.toInt_ofInt]
  rw [Int.bmod_bmod_of_dvd]
  exact_mod_cast Nat.pow_dvd_pow 2 h

/-- A 32-bit port pattern is the encoding of its own signed reading. -/
theorem toBits_toInt_port (b : ImmPort) : toBits b.toInt 32 = b := by
  rw [toBits_eq_ofInt, BitVec.ofInt_toInt]

/-- A slice over the whole width is the value. -/
theorem extractLsb_whole {n : Nat} (b : BitVec (n + 1)) : b.extractLsb n 0 = b := by
  apply BitVec.eq_of_toNat_eq
  simp [BitVec.extractLsb, BitVec.extractLsb']

section
variable (op : Opcode) (f3 : Funct3) (f7 : Funct7) (rd rs1 rs2 : Reg) (v : Int) (k : Nat)

theorem packR_getLsbD : (packR op f3 f7 rd rs1 rs2).getLsbD k =
    if k < 7 then op.getLsbD k else if k - 7 < 5 then rd.getLsbD (k - 7)
    else if k - 7 - 5 < 3 then f3.getLsbD (k - 7 - 5) else if k - 7 - 5 - 3 < 5 then rs1.getLsbD (k - 7 - 5 - 3)
    else if k - 7 - 5 - 3 - 5 < 5 then rs2.getLsbD (k - 7 - 5 - 3 - 5) else f7.getLsbD (k - 7 - 5 - 3 - 5 - 5) := by
  change (f7 ++ rs2 ++ rs1 ++ f3 ++ rd ++ op : BitVec (7 + 5 + 5 + 3 + 5 + 7)).getLsbD k = _
  simp only [BitVec.getLsbD_append]

theorem packI_getLsbD : (packI op f3 rd rs1 v).getLsbD k =
    if k < 7 then op.getLsbD k else if k - 7 < 5 then rd.getLsbD (k - 7)
    else if k - 7 - 5 < 3 then f3.getLsbD (k - 7 - 5) else if k - 7 - 5 - 3 < 5 then rs1.getLsbD (k - 7 - 5 - 3)
    else (toBits v 12).getLsbD (k - 7 - 5 - 3 - 5) := by
  conv_rhs => rw [← extractLsb_whole (toBits v 12)]
  change ((toBits v 12).extractLsb 11 0 ++ rs1 ++ f3 ++ rd ++ op : BitVec ((11 - 0 + 1) + 5 + 3 + 5 + 7)).getLsbD k = _
  simp only [BitVec.getLsbD_append]

theorem packS_getLsbD : (packS op f3 rs1 rs2 v).getLsbD k =
    if k < 7 then op.getLsbD k else if k - 7 < 5 then ((toBits v 12).extractLsb 4 0).getLsbD (k - 7)
    else if k - 7 - 5 < 3 then f3.getLsbD (k - 7 - 5) else if k - 7 - 5 - 3 < 5 then rs1.getLsbD (k - 7 - 5 - 3)
    else if k - 7 - 5 - 3 - 5 < 5 then rs2.getLsbD (k - 7 - 5 - 3 - 5)
    else ((toBits v 12).extractLsb 11 5).getLsbD (k - 7 - 5 - 3 - 5 - 5) := by
  change ((toBits v 12).extractLsb 11 5 ++ rs2 ++ rs1 ++ f3 ++ (toBits v 12).extractLsb 4 0 ++ op :
    BitVec ((11 - 5 + 1) + 5 + 5 + 3 + (4 - 0 + 1) + 7)).getLsbD k = _
  simp only [BitVec.getLsbD_append]

theorem packSB_getLsbD : (packSB op f3 rs1 rs2 v).getLsbD k =
    if k < 7 then op.getLsbD k else if k - 7 < 1 then ((toBits v 13).extractLsb 11 11).getLsbD (k - 7)
    else if k - 7 - 1 < 4 then ((toBits v 13).extractLsb 4 1).getLsbD (k - 7 - 1)
    else if k - 7 - 1 - 4 < 3 then f3.getLsbD (k - 7 - 1 - 4)
    else if k - 7 - 1 - 4 - 3 < 5 then rs1.getLsbD (k - 7 - 1 - 4 - 3)
    else if k - 7 - 1 - 4 - 3 - 5 < 5 then rs2.getLsbD (k - 7 - 1 - 4 - 3 - 5)
    else if k - 7 - 1 - 4 - 3 - 5 - 5 < 6 then ((toBits v 13).extractLsb 10 5).getLsbD (k - 7 - 1 - 4 - 3 - 5 - 5)
    else ((toBits v 13).extractLsb 12 12).getLsbD (k - 7 - 1 - 4 - 3 - 5 - 5 - 6) := by
  change ((toBits v 13).extractLsb 12 12 ++ (toBits v 13).extractLsb 10 5 ++ rs2 ++ rs1 ++ f3 ++
    (toBits v 13).extractLsb 4 1 ++ (toBits v 13).extractLsb 11 11 ++ op :
    BitVec ((12 - 12 + 1) + (10 - 5 + 1) + 5 + 5 + 3 + (4 - 1 + 1) + (11 - 11 + 1) + 7)).getLsbD k = _
  simp only [BitVec.getLsbD_append]

theorem packU_getLsbD : (packU op rd v).getLsbD k =
    if k < 7 then op.getLsbD k else if k - 7 < 5 then rd.getLsbD (k - 7)
    else (toBits v 20).getLsbD (k - 7 - 5) := by
  conv_rhs => rw [← extractLsb_whole (toBits v 20)]
  change ((toBits v 20).extractLsb 19 0 ++ rd ++ op : BitVec ((19 - 0 + 1) + 5 + 7)).getLsbD k = _
  simp only [BitVec.getLsbD_append]

theorem packUJ_getLsbD : (packUJ op rd v).getLsbD k =
    if k < 7 then op.getLsbD k else if k - 7 < 5 then rd.getLsbD (k - 7)
    else if k - 7 - 5 < 8 then ((toBits v 21).extractLsb 19 12).getLsbD (k - 7 - 5)
    else if k - 7 - 5 - 8 < 1 then ((toBits v 21).extractLsb 11 11).getLsbD (k - 7 - 5 - 8)
    else if k - 7 - 5 - 8 - 1 < 10 then ((toBits v 21).extractLsb 10 1).getLsbD (k - 7 - 5 - 8 - 1)
    else ((toBits v 21).extractLsb 20 20).getLsbD (k - 7 - 5 - 8 - 1 - 10) := by
  change ((toBits v 21).extractLsb 20 20 ++ (toBits v 21).extractLsb 10 1 ++ (toBits v 21).extractLsb 11 11 ++
    (toBits v 21).extractLsb 19 12 ++ rd ++ op : BitVec ((20 - 20 + 1) + (10 - 1 + 1) + (11 - 11 + 1) + (19 - 12 + 1) + 5 + 7)).getLsbD k = _
  simp only [BitVec.getLsbD_append]

end

end Sys2Proof.Machine
end

