-- ==== Sys2Proof/Tests/Slice0.lean ====
section
/-! SUPPORT. Tests on fixed values, their expected results taken from spec/95_test_vectors.md and from the bit layouts of
30_encoding.md, and a witness for every obligation that has hypotheses. -/

namespace Sys2Proof.Tests
open Sys2Proof Sys2Proof.Machine

/-- A state of pass 2 with one retained line, at address 0. -/
def atLine (p : Params) (it : Item) : State :=
  { State.start p [] with phase := .pass2, addr := 4, retained := [⟨0, it⟩] }

/-- The reference reachability (R200). -/
def narrowParams : Params := { defaultParams with wired := referenceWired }

/-- A Catalog of the two entries DOC shows and one with a name of its own (R96, R98). -/
def otherParams : Params :=
  { defaultParams with
    catalog := [("add".toList, .r 0b0110011#7 0b000#3 0b0000000#7), ("addi".toList, .i 0b0010011#7 0b000#3),
      ("put".toList, .s 0b0100011#7 0b011#3)] }

/-- The words of RECORDS after one step on one line. -/
def emitted (p : Params) (it : Item) : Option (List Word) :=
  match step (atLine p it) with
  | .next t => some (t.records.map Record.word)
  | _ => none

/-- The statuses of DIAG after one step on one line. -/
def raised (p : Params) (it : Item) : Option (List Status) :=
  match step (atLine p it) with
  | .next t => some (t.diag.map Diag.status)
  | _ => none

/-- Why one step on one line is refused. -/
def refusedAs (p : Params) (it : Item) : Option Refusal :=
  match step (atLine p it) with
  | .refused r => some r
  | _ => none

/-! ## Well-formedness: each check refuses an ill-formed term -/

theorem test_wf_refuses_above_port : (Instr.addi 1 2 2147483648).wf = false := by decide
theorem test_wf_refuses_below_port : (Instr.packUJ 0 1 (-2147483649)).wf = false := by decide
theorem test_wf_admits_port_ends :
    (Instr.sw 1 2 2147483647).wf = true ∧ (Instr.jal 1 (-2147483648)).wf = true := by decide
theorem test_exact_refuses_I : (Instr.addi 1 2 2048).exact = false ∧ (Instr.addi 1 2 2047).exact = true := by decide
theorem test_exact_refuses_S : (Instr.sw 1 2 (-2049)).exact = false ∧ (Instr.sw 1 2 (-2048)).exact = true := by decide
theorem test_exact_refuses_odd_SB : (Instr.beq 1 2 9).exact = false ∧ (Instr.beq 1 2 8).exact = true := by decide
theorem test_exact_refuses_far_SB : (Instr.beq 1 2 4096).exact = false ∧ (Instr.beq 1 2 4094).exact = true := by decide
theorem test_exact_refuses_negative_U : (Instr.lui 5 (-1)).exact = false ∧ (Instr.lui 5 1048575).exact = true := by decide
theorem test_exact_refuses_odd_UJ : (Instr.jal 1 5).exact = false ∧ (Instr.jal 1 1048574).exact = true := by decide
theorem test_exact_refuses_far_UJ :
    (Instr.jal 1 1048576).exact = false ∧ (Instr.jal 1 (-1048576)).exact = true := by decide

/-! ## Catalog rows: a word written out field by field from R64 to R69 and R99, and the source line of R77

The words of `add`, `sub`, `and`, `addi`, `lw`, `sw`, `beq`, `bne`, `lui`, `jal` are the vectors V-R1, V-R2, V-R5, V-I5,
V-I10, V-S2, V-SB1, V-SB18, V-U3, V-UJ4. -/

theorem test_add : decodeTableWord 32 0b0000000_00011_00010_000_00001_0110011 = some (.add 1 2 3) ∧
    emitted defaultParams (.text "add x1, x2, x3".toList) = some [0b0000000_00011_00010_000_00001_0110011#32] := by decide

theorem test_sub : decodeTableWord 32 0b0100000_11111_00000_000_11111_0110011 = some (.sub 31 0 31) ∧
    emitted defaultParams (.text "sub x31, x0, x31".toList) = some [0b0100000_11111_00000_000_11111_0110011#32] := by decide

theorem test_sll : decodeTableWord 32 0b0000000_10010_01001_001_00100_0110011 = some (.sll 4 9 18) ∧
    emitted defaultParams (.text "sll x4, x9, x18".toList) = some [0b0000000_10010_01001_001_00100_0110011#32] := by decide

theorem test_slt : decodeTableWord 32 0b0000000_00010_00001_010_10000_0110011 = some (.slt 16 1 2) ∧
    emitted defaultParams (.text "slt x16, x1, x2".toList) = some [0b0000000_00010_00001_010_10000_0110011#32] := by decide

theorem test_sltu : decodeTableWord 32 0b0000000_01100_11110_011_00101_0110011 = some (.sltu 5 30 12) ∧
    emitted defaultParams (.text "sltu x5, x30, x12".toList) = some [0b0000000_01100_11110_011_00101_0110011#32] := by decide

theorem test_xor : decodeTableWord 32 0b0000000_00011_11000_100_01000_0110011 = some (.xor 8 24 3) ∧
    emitted defaultParams (.text "xor x8, x24, x3".toList) = some [0b0000000_00011_11000_100_01000_0110011#32] := by decide

theorem test_srl : decodeTableWord 32 0b0000000_11101_00110_101_10001_0110011 = some (.srl 17 6 29) ∧
    emitted defaultParams (.text "srl x17, x6, x29".toList) = some [0b0000000_11101_00110_101_10001_0110011#32] := by decide

theorem test_sra : decodeTableWord 32 0b0100000_01010_10101_101_00010_0110011 = some (.sra 2 21 10) ∧
    emitted defaultParams (.text "sra x2, x21, x10".toList) = some [0b0100000_01010_10101_101_00010_0110011#32] := by decide

theorem test_or : decodeTableWord 32 0b0000000_00111_11100_110_10011_0110011 = some (.or 19 28 7) ∧
    emitted defaultParams (.text "or x19, x28, x7".toList) = some [0b0000000_00111_11100_110_10011_0110011#32] := by decide

theorem test_and : decodeTableWord 32 0b0000000_00111_00111_111_00111_0110011 = some (.and 7 7 7) ∧
    emitted defaultParams (.text "and x7, x7, x7".toList) = some [0b0000000_00111_00111_111_00111_0110011#32] := by decide

theorem test_addi : decodeTableWord 32 0b100000000000_00010_000_00001_0010011 = some (.addi 1 2 (-2048)) ∧
    emitted defaultParams (.text "addi x1, x2, -2048".toList) = some [0b100000000000_00010_000_00001_0010011#32] := by decide

theorem test_slti : decodeTableWord 32 0b011111111111_10100_010_01001_0010011 = some (.slti 9 20 2047) ∧
    emitted defaultParams (.text "slti x9, x20, 2047".toList) = some [0b011111111111_10100_010_01001_0010011#32] := by decide

theorem test_sltiu : decodeTableWord 32 0b111111111111_01100_011_00011_0010011 = some (.sltiu 3 12 (-1)) ∧
    emitted defaultParams (.text "sltiu x3, x12, -1".toList) = some [0b111111111111_01100_011_00011_0010011#32] := by decide

theorem test_xori : decodeTableWord 32 0b010101010101_00001_100_11110_0010011 = some (.xori 30 1 1365) ∧
    emitted defaultParams (.text "xori x30, x1, 1365".toList) = some [0b010101010101_00001_100_11110_0010011#32] := by decide

theorem test_ori : decodeTableWord 32 0b101010101010_00101_110_10010_0010011 = some (.ori 18 5 (-1366)) ∧
    emitted defaultParams (.text "ori x18, x5, -1366".toList) = some [0b101010101010_00101_110_10010_0010011#32] := by decide

theorem test_andi : decodeTableWord 32 0b000011111111_11001_111_00110_0010011 = some (.andi 6 25 255) ∧
    emitted defaultParams (.text "andi x6, x25, 255".toList) = some [0b000011111111_11001_111_00110_0010011#32] := by decide

theorem test_lb : decodeTableWord 32 0b111110000000_10110_000_01011_0000011 = some (.lb 11 22 (-128)) ∧
    emitted defaultParams (.text "lb x11, x22, -128".toList) = some [0b111110000000_10110_000_01011_0000011#32] := by decide

theorem test_lh : decodeTableWord 32 0b010000000000_00011_001_11101_0000011 = some (.lh 29 3 1024) ∧
    emitted defaultParams (.text "lh x29, x3, 1024".toList) = some [0b010000000000_00011_001_11101_0000011#32] := by decide

theorem test_lw : decodeTableWord 32 0b111111111100_01011_010_01010_0000011 = some (.lw 10 11 (-4)) ∧
    emitted defaultParams (.text "lw x10, x11, -4".toList) = some [0b111111111100_01011_010_01010_0000011#32] := by decide

theorem test_lbu : decodeTableWord 32 0b000001001101_10001_100_11000_0000011 = some (.lbu 24 17 77) ∧
    emitted defaultParams (.text "lbu x24, x17, 77".toList) = some [0b000001001101_10001_100_11000_0000011#32] := by decide

theorem test_lhu : decodeTableWord 32 0b100000000001_01000_101_01101_0000011 = some (.lhu 13 8 (-2047)) ∧
    emitted defaultParams (.text "lhu x13, x8, -2047".toList) = some [0b100000000001_01000_101_01101_0000011#32] := by decide

theorem test_jalr : decodeTableWord 32 0b000000000100_00001_000_00000_1100111 = some (.jalr 0 1 4) ∧
    emitted defaultParams (.text "jalr x0, x1, 4".toList) = some [0b000000000100_00001_000_00000_1100111#32] := by decide

theorem test_sb : decodeTableWord 32 0b1010101_11010_00111_000_01010_0100011 = some (.sb 26 7 (-1366)) ∧
    emitted defaultParams (.text "sb x26, x7, -1366".toList) = some [0b1010101_11010_00111_000_01010_0100011#32] := by decide

theorem test_sh : decodeTableWord 32 0b0111111_00100_10011_001_11111_0100011 = some (.sh 4 19 2047) ∧
    emitted defaultParams (.text "sh x4, x19, 2047".toList) = some [0b0111111_00100_10011_001_11111_0100011#32] := by decide

theorem test_sw : decodeTableWord 32 0b0000000_01110_00010_010_01000_0100011 = some (.sw 14 2 8) ∧
    emitted defaultParams (.text "sw x14, x2, 8".toList) = some [0b0000000_01110_00010_010_01000_0100011#32] := by decide

theorem test_beq : decodeTableWord 32 0b0_000000_00010_00001_000_0100_0_1100011 = some (.beq 1 2 8) ∧
    emitted defaultParams (.text "beq x1, x2, 8".toList) = some [0b0_000000_00010_00001_000_0100_0_1100011#32] := by decide

theorem test_bne : decodeTableWord 32 0b1_111111_01011_01010_001_1000_1_1100011 = some (.bne 10 11 (-16)) ∧
    emitted defaultParams (.text "bne x10, x11, -16".toList) = some [0b1_111111_01011_01010_001_1000_1_1100011#32] := by decide

theorem test_blt : decodeTableWord 32 0b0_000000_11100_00011_100_0000_1_1100011 = some (.blt 3 28 2048) ∧
    emitted defaultParams (.text "blt x3, x28, 2048".toList) = some [0b0_000000_11100_00011_100_0000_1_1100011#32] := by decide

theorem test_bge : decodeTableWord 32 0b0_010101_00110_10001_101_0101_1_1100011 = some (.bge 17 6 2730) ∧
    emitted defaultParams (.text "bge x17, x6, 2730".toList) = some [0b0_010101_00110_10001_101_0101_1_1100011#32] := by decide

theorem test_bltu : decodeTableWord 32 0b1_000000_10100_01001_110_0000_0_1100011 = some (.bltu 9 20 (-4096)) ∧
    emitted defaultParams (.text "bltu x9, x20, -4096".toList) = some [0b1_000000_10100_01001_110_0000_0_1100011#32] := by decide

theorem test_bgeu : decodeTableWord 32 0b0_111111_00101_11110_111_1111_1_1100011 = some (.bgeu 30 5 4094) ∧
    emitted defaultParams (.text "bgeu x30, x5, 4094".toList) = some [0b0_111111_00101_11110_111_1111_1_1100011#32] := by decide

theorem test_lui : decodeTableWord 32 0b00010010001101000101_00101_0110111 = some (.lui 5 74565) ∧
    emitted defaultParams (.text "lui x5, 74565".toList) = some [0b00010010001101000101_00101_0110111#32] := by decide

theorem test_auipc : decodeTableWord 32 0b11111111111111111111_10110_0010111 = some (.auipc 22 1048575) ∧
    emitted defaultParams (.text "auipc x22, 1048575".toList) = some [0b11111111111111111111_10110_0010111#32] := by decide

theorem test_jal : decodeTableWord 32 0b1_1111111110_1_11111111_00001_1101111 = some (.jal 1 (-4)) ∧
    emitted defaultParams (.text "jal x1, -4".toList) = some [0b1_1111111110_1_11111111_00001_1101111#32] := by decide

/-! ## Commands at the port (R62, R63) -/

/-- V-M1: the fields of V-R1, `imm` all ones. -/
theorem test_packR :
    decodeItem defaultParams (.port 0b00_11111111111111111111111111111111_00011_00010_00001_0000000_000_0110011_000#69 []) =
      .instr (.packR 0b0110011 0b000 0b0000000 1 2 3) ∧
    emitted defaultParams (.port 0b00_11111111111111111111111111111111_00011_00010_00001_0000000_000_0110011_000#69 []) =
      some [0b0000000_00011_00010_000_00001_0110011#32] := by decide

/-- V-R3: nothing is validated (R176). -/
theorem test_packR_all_ones :
    decodeItem defaultParams (.port 0b00_11111111111111111111111111111111_11111_11111_11111_1111111_111_1111111_000#69 []) =
      .instr (.packR 0b1111111 0b111 0b1111111 31 31 31) ∧
    emitted defaultParams (.port 0b00_11111111111111111111111111111111_11111_11111_11111_1111111_111_1111111_000#69 []) =
      some [0b1111111_11111_11111_111_11111_1111111#32] := by decide

/-- V-M2: the fields of V-I1, `rs2` and `funct7` all ones. -/
theorem test_packI :
    decodeItem defaultParams (.port 0b00_00000000000000000000000000001010_11111_00000_00101_1111111_000_0010011_001#69 []) =
      .instr (.packI 0b0010011 0b000 5 0 10) ∧
    emitted defaultParams (.port 0b00_00000000000000000000000000001010_11111_00000_00101_1111111_000_0010011_001#69 []) =
      some [0b000000001010_00000_000_00101_0010011#32] := by decide

/-- V-I7: -2049 wraps to 2047. -/
theorem test_packI_wraps :
    decodeItem defaultParams (.port 0b00_11111111111111111111011111111111_11111_00010_00001_1111111_000_0010011_001#69 []) =
      .instr (.packI 0b0010011 0b000 1 2 (-2049)) ∧
    emitted defaultParams (.port 0b00_11111111111111111111011111111111_11111_00010_00001_1111111_000_0010011_001#69 []) =
      some [0b011111111111_00010_000_00001_0010011#32] := by decide

/-- V-M3: the fields of V-S2, `rd` and `funct7` all ones. -/
theorem test_packS :
    decodeItem defaultParams (.port 0b00_00000000000000000000000000001000_01110_00010_11111_1111111_010_0100011_010#69 []) =
      .instr (.packS 0b0100011 0b010 2 14 8) ∧
    emitted defaultParams (.port 0b00_00000000000000000000000000001000_01110_00010_11111_1111111_010_0100011_010#69 []) =
      some [0b0000000_01110_00010_010_01000_0100011#32] := by decide

/-- V-S9: alternating bits show the split. -/
theorem test_packS_split :
    decodeItem defaultParams (.port 0b00_00000000000000000000010101010101_01110_00010_11111_1111111_010_0100011_010#69 []) =
      .instr (.packS 0b0100011 0b010 2 14 1365) ∧
    emitted defaultParams (.port 0b00_00000000000000000000010101010101_01110_00010_11111_1111111_010_0100011_010#69 []) =
      some [0b0101010_01110_00010_010_10101_0100011#32] := by decide

/-- V-M4: the fields of V-SB1, `rd` and `funct7` all ones. -/
theorem test_packSB :
    decodeItem defaultParams (.port 0b00_00000000000000000000000000001000_00010_00001_11111_1111111_000_1100011_011#69 []) =
      .instr (.packSB 0b1100011 0b000 1 2 8) ∧
    emitted defaultParams (.port 0b00_00000000000000000000000000001000_00010_00001_11111_1111111_000_1100011_011#69 []) =
      some [0b0_000000_00010_00001_000_0100_0_1100011#32] := by decide

/-- V-SB14: -4097 wraps to 4095 and bit 0 is dropped. -/
theorem test_packSB_scramble :
    decodeItem defaultParams (.port 0b00_11111111111111111110111111111111_00010_00001_11111_1111111_000_1100011_011#69 []) =
      .instr (.packSB 0b1100011 0b000 1 2 (-4097)) ∧
    emitted defaultParams (.port 0b00_11111111111111111110111111111111_00010_00001_11111_1111111_000_1100011_011#69 []) =
      some [0b0_111111_00010_00001_000_1111_1_1100011#32] := by decide

/-- V-M5: the fields of V-U3, the others all ones. -/
theorem test_packU :
    decodeItem defaultParams (.port 0b00_00000000000000010010001101000101_11111_11111_00101_1111111_111_0110111_100#69 []) =
      .instr (.packU 0b0110111 5 74565) ∧
    emitted defaultParams (.port 0b00_00000000000000010010001101000101_11111_11111_00101_1111111_111_0110111_100#69 []) =
      some [0b00010010001101000101_00101_0110111#32] := by decide

/-- V-U7: only the top bit. -/
theorem test_packU_negative :
    decodeItem defaultParams (.port 0b00_11111111111110000000000000000000_11111_11111_00101_1111111_111_0110111_100#69 []) =
      .instr (.packU 0b0110111 5 (-524288)) ∧
    emitted defaultParams (.port 0b00_11111111111110000000000000000000_11111_11111_00101_1111111_111_0110111_100#69 []) =
      some [0b10000000000000000000_00101_0110111#32] := by decide

/-- V-M6: the fields of V-UJ1, the others all ones. -/
theorem test_packUJ :
    decodeItem defaultParams (.port 0b00_00000000000000000000000000000100_11111_11111_00001_1111111_111_1101111_101#69 []) =
      .instr (.packUJ 0b1101111 1 4) ∧
    emitted defaultParams (.port 0b00_00000000000000000000000000000100_11111_11111_00001_1111111_111_1101111_101#69 []) =
      some [0b0_0000000010_0_00000000_00001_1101111#32] := by decide

/-- V-UJ9: bits 19:12. -/
theorem test_packUJ_scramble :
    decodeItem defaultParams (.port 0b00_00000000000011111111000000000000_11111_11111_00001_1111111_111_1101111_101#69 []) =
      .instr (.packUJ 0b1101111 1 1044480) ∧
    emitted defaultParams (.port 0b00_00000000000011111111000000000000_11111_11111_00001_1111111_111_1101111_101#69 []) =
      some [0b0_0000000000_0_11111111_00001_1101111#32] := by decide

/-- R63, from the opcode table's codes alone: the six packers and the two reserved codes. -/
theorem test_fmt_codes :
    decodeTableWord 8 0b000 = some (.packR 0 0 0 0 0 0) ∧ decodeTableWord 8 0b001 = some (.packI 0 0 0 0 0) ∧
    decodeTableWord 8 0b010 = some (.packS 0 0 0 0 0) ∧ decodeTableWord 8 0b011 = some (.packSB 0 0 0 0 0) ∧
    decodeTableWord 8 0b100 = some (.packU 0 0 0) ∧ decodeTableWord 8 0b101 = some (.packUJ 0 0 0) ∧
    decodeTableWord 8 0b110 = some .reservedFmt6 ∧ decodeTableWord 8 0b111 = some .reservedFmt7 := by decide

/-- V-M7. -/
theorem test_reservedFmt6 : raised defaultParams (.port 0b00_11111111111111111111111111111111_11111_11111_11111_1111111_111_1111111_110#69 []) = some [.badFormat] := by decide
/-- V-M8. -/
theorem test_reservedFmt7 : raised defaultParams (.port 0b00_11111111111111111111111111111111_11111_11111_11111_1111111_111_1111111_111#69 []) = some [.badFormat] := by decide
/-- V-M10. -/
theorem test_pre_badRegister : raised defaultParams (.port 0b10_11111111111111111111111111111111_11111_11111_11111_1111111_111_1111111_000#69 []) = some [.badRegister] := by decide
/-- V-M11: `pre` wins over `fmt`. -/
theorem test_pre_unclassified : raised defaultParams (.port 0b01_11111111111111111111111111111111_11111_11111_11111_1111111_111_1111111_110#69 []) = some [.unclassified] := by decide
/-- V-M14. -/
theorem test_pre_reserved : raised defaultParams (.port 0b11_11111111111111111111111111111111_11111_11111_11111_1111111_111_1111111_000#69 []) = some [.badFormat] := by decide
/-- V-M12 and V-M13. -/
theorem test_notWired :
    raised narrowParams (.port 0b00_11111111111111111111111111111111_11111_11111_11111_1111111_111_1111111_010#69 []) = some [.notWired] ∧
    raised narrowParams (.port 0b00_11111111111111111111111111111111_11111_11111_11111_1111111_111_1111111_100#69 []) = some [.notWired] := by decide

/-! ## Decoding -/

/-- No two catalog rows of the opcode table share a word: their match numbers differ under the masks. -/
theorem test_rows_do_not_overlap :
    (allMnemonics.all fun a => allMnemonics.all fun b =>
      decide (a = b) || (matchWord a ^^^ matchWord b) &&& maskWord (mnemonicFixed a).format &&&
        maskWord (mnemonicFixed b).format != 0) = true := by decide
/-- A row's match number has no bit outside its mask. -/
theorem test_match_in_mask :
    (allMnemonics.all fun m => matchWord m &&& maskWord (mnemonicFixed m).format == matchWord m) = true := by decide
/-- Words of no row: `slli`, `mul`, `ecall`, all zeros (R99 leaves them out). -/
theorem test_other_words :
    decodeTableWord 32 0b0000000_00001_00010_001_00001_0010011 = none ∧
    decodeTableWord 32 0b0000001_00011_00010_000_00001_0110011 = none ∧
    decodeTableWord 32 0x00000073 = none ∧ decodeTableWord 32 0 = none := by decide
/-- R181, R182: a label definition is a line of one token. -/
theorem test_labelOf :
    labelOf "loop:".toList = some "loop".toList ∧ labelOf "  end:  ".toList = some "end".toList ∧
    labelOf "loop: add x1, x2, x3".toList = none ∧ labelOf "add x1, x2, x3".toList = none ∧
    labelOf ":".toList = none := by decide
/-- P3: `mul a b c` is Unclassified, `x32` is BadRegister; R93: any first token the Catalog lacks is Unclassified. -/
theorem test_line_errors :
    raised defaultParams (.text "mul a b c".toList) = some [.unclassified] ∧
    raised defaultParams (.text "add, x1, x2, x3".toList) = some [.unclassified] ∧
    raised defaultParams (.text "2add x1".toList) = some [.unclassified] ∧
    raised defaultParams (.text "add x1, x32, x3".toList) = some [.badRegister] := by decide
/-- P3: an out-of-range immediate wraps, bit 0 of a branch offset is dropped, an upper immediate wraps to 0. -/
theorem test_line_wraps :
    emitted defaultParams (.text "addi x1, x2, 2048".toList) = some [0x80010093#32] ∧
    emitted defaultParams (.text "beq x1, x2, 9".toList) = some [0x00208463#32] ∧
    emitted defaultParams (.text "lui x5, 1048576".toList) = some [0x000002b7#32] := by decide
/-- P2 with the reference `WIRED`: the `sw` line is NotWired. -/
theorem test_line_notWired : raised narrowParams (.text "sw x5, x2, 8".toList) = some [.notWired] := by decide
/-- R218: the class is decided before the operands: a bad register on a line of an unwired class is NotWired. -/
theorem test_line_priority :
    raised narrowParams (.text "sw x99, x2, 8".toList) = some [.notWired] ∧
    raised narrowParams (.text "frob x99".toList) = some [.unclassified] := by decide
/-- R98: an entry of another Catalog, an S class word with funct3 011. -/
theorem test_other_catalog :
    emitted otherParams (.text "put x14, x2, 8".toList) = some [0b0000000_01110_00010_011_01000_0100011#32] ∧
    raised otherParams (.text "sw x14, x2, 8".toList) = some [.unclassified] := by decide
/-- U6, U7: lines outside the input contract are refused by name. -/
theorem test_refused_lines :
    refusedAs defaultParams (.text "  ".toList) = some (.line .blankLine) ∧
    refusedAs defaultParams (.text "# comment".toList) = some (.line .comment) ∧
    refusedAs defaultParams (.text ".word 5".toList) = some (.line .directive) ∧
    refusedAs defaultParams (.text "loop: add x1, x2, x3".toList) = some (.line .labelWithInstruction) ∧
    refusedAs defaultParams (.text "add x1, x2".toList) = some (.line .operandCount) ∧
    refusedAs defaultParams (.text "jal x1, loop".toList) = some (.line .immediateNotInteger) := by decide
/-- D4: decimal with an optional leading `-`; at most one trailing comma is stripped. -/
theorem test_integers :
    readInt "-8".toList = some (-8) ∧ readInt "74565".toList = some 74565 ∧ readInt "0x10".toList = none ∧
    readInt "-".toList = none ∧ readInt [] = none ∧ stripSeparator "x1,,".toList = "x1,".toList := by decide

/-! ## Register Resolver and Catalog -/

/-- V-RES1 to V-RES4. -/
theorem test_resolve :
    resolve "x0".toList = some 0 ∧ resolve "x1".toList = some 1 ∧ resolve "x10".toList = some 10 ∧
    resolve "x31".toList = some 31 := by decide
/-- V-RES5 to V-RES10. -/
theorem test_resolve_fails :
    (["x32", "X1", "x1,", "zero", "ra", "a", "", "x", "x01"].all fun n => resolve n.toList == none) = true := by decide
/-- V-CL1 to V-CL4. -/
theorem test_classify :
    classify referenceCatalog "add".toList = some (.r 0b0110011#7 0b000#3 0b0000000#7) ∧
    classify referenceCatalog "addi".toList = some (.i 0b0010011#7 0b000#3) ∧
    (["mul", "ADD", "Add", ""].all fun n => classify referenceCatalog n.toList == none) = true := by decide
/-- R97: the reference Catalog has an entry of each class S, U, SB, UJ. -/
theorem test_catalog_bounds :
    ([Format.S, .U, .SB, .UJ].all fun f => referenceCatalog.any fun e => e.2.format == f) = true := by decide

/-! ## Field Encoder and recovered immediates -/

/-- V-TB6, 8, 12, 16, 23. -/
theorem test_toBits :
    toBits 64 7 = 0b1000000#7 ∧ toBits 128 7 = 0b0000000#7 ∧ toBits (-5) 12 = 0b111111111011#12 ∧
    toBits (-2049) 12 = 0b011111111111#12 ∧ toBits 4096 13 = 0b1000000000000#13 := by decide
/-- V-TB37, 40, 42: the native minimum. -/
theorem test_toBits_native :
    toBits (-2147483648) 32 = 0b10000000000000000000000000000000#32 ∧ toBits (-2147483648) 12 = 0#12 ∧
    toBits (-2147483648) 21 = 0#21 := by decide
/-- "reads back as" of V-TB2, 14, 16, 33. -/
theorem test_signed :
    signed (toBits 31 5) = -1 ∧ signed (toBits 2048 12) = -2048 ∧ signed (toBits (-2049) 12) = 2047 ∧
    signed (toBits 1048576 21) = -1048576 := by decide
/-- V-D1 to V-D6. -/
theorem test_recovered :
    recoveredImm .I 0x80010093 = -2048 ∧ recoveredImm .S 0xfee12c23 = -8 ∧ recoveredImm .SB 0xfe208ce3 = -8 ∧
    recoveredImm .SB 0x00208463 = 8 ∧ recoveredImm .UJ 0xffdff0ef = -4 ∧ upperImm 0x123452b7 = 0x12345000 := by decide

/-! ## The Line Driver -/

/-- P1: `start:` binds 0 and leaves ADDR; the line after it is retained at 0 and ADDR is 4. -/
theorem test_label_then_line :
    (match Host.Core.run Sys2Proof.core 2
        (State.start defaultParams [.text "start:".toList, .text "add x1, x2, x3".toList]) with
      | .next t => decide (t.labels = [("start".toList, 0)] ∧ t.addr = 4 ∧
          t.retained = [⟨0, .text "add x1, x2, x3".toList⟩])
      | _ => false) = true := by decide
/-- R184's example: the record of `addi x5, x0, 10`. -/
theorem test_record :
    (match step (atLine defaultParams (.text "addi x5, x0, 10".toList)) with
      | .next t => decide (t.records = [⟨0, 0x00a00293#32, "addi x5, x0, 10".toList⟩] ∧ t.diag = [] ∧ t.addr = 4)
      | _ => false) = true := by decide
/-- R194: lower-case hexadecimal addresses without padding (P2), and the 32 digits of the word of S2. -/
theorem test_printed_parts :
    hexAddress 0 = "0".toList ∧ hexAddress 12 = "c".toList ∧ hexAddress 16 = "10".toList ∧
    wordDigits 0x00a00293 = "00000000101000000000001010010011".toList := by decide
/-- R47: the byte holding word bits 7:0 is at the lowest address in little-endian order. -/
theorem test_bytes :
    recordCells .little ⟨8, 0x00512423, []⟩ = [(8, 0x23), (9, 0x24), (10, 0x51), (11, 0x00)] ∧
    recordCells .big ⟨8, 0x00512423, []⟩ = [(8, 0x00), (9, 0x51), (10, 0x24), (11, 0x23)] := by decide
/-- The step after `withFetchWord` runs exactly that word. -/
theorem test_withFetchWord :
    (match step (State.reset.withFetchWord 32 0x00e12423) with
      | .next t => decide (t.records.map Record.word = [0x00e12423#32])
      | _ => false) = true := by decide

/-! ## Witnesses: a state and operands that meet the hypotheses of an obligation -/

/-- The line of V-R1. -/
def addLine : Item := .text "add x1, x2, x3".toList

/-- A state in the middle of pass 2: three lines, the first encoded, the second failed. -/
def midRun : State :=
  { State.start defaultParams [] with
    phase := .pass2, addr := 12, labels := [("end".toList, 12)], cursor := 2
    retained := [⟨0, addLine⟩, ⟨4, .text "mul a b c".toList⟩, ⟨8, addLine⟩]
    records := [⟨0, 0x003100b3, addLine.line⟩], diag := [⟨.unclassified, 4, "mul a b c".toList⟩] }

theorem midRun_inv : midRun.Inv where
  addr_counts := rfl
  assigned := fun k r h => by
    match k, h with
    | 0, h => cases h; rfl
    | 1, h => cases h; rfl
    | 2, h => cases h; rfl
    | _ + 3, h => cases h
  cursor_le := by decide
  pass1_first := by decide
  input_read := fun _ => rfl
  done_all := by decide
  handled := rfl
  records_increase := by decide
  diag_increase := by decide
  record_slots := by decide
  diag_slots := by decide
  slots_apart := by decide
  diag_errors := by decide
  label_slots := by decide
  addr_fits := fun _ h => by cases h

theorem midRun_follows : midRun.OutputsFollowLines where
  cursor_le := by decide
  records_eq := by decide
  diag_eq := by decide

theorem witness_StepKeepsSoundState : midRun.Inv ∧ ∃ t, step midRun = .next t := ⟨midRun_inv, _, rfl⟩
theorem witness_StepKeepsOutputsFollowLines : midRun.OutputsFollowLines ∧ ∃ t, step midRun = .next t :=
  ⟨midRun_follows, _, rfl⟩
theorem witness_StepRunsDecodedInstruction :
    midRun.ioAvailable = true ∧ midRun.phase = .pass2 ∧ midRun.current = some ⟨8, addLine⟩ ∧
    decodeItem midRun.cfg addLine = .instr (.add 1 2 3) := by decide
theorem witness_StepOnLineWithoutInstruction_fails :
    let s := atLine defaultParams (.text "mul a b c".toList)
    s.ioAvailable = true ∧ s.phase = .pass2 ∧ s.current = some ⟨0, .text "mul a b c".toList⟩ ∧
    decodeItem s.cfg (.text "mul a b c".toList) = .fails .unclassified := by decide
theorem witness_StepOnLineWithoutInstruction_rejected :
    let s := atLine defaultParams (.text [])
    s.ioAvailable = true ∧ s.phase = .pass2 ∧ s.current = some ⟨0, .text []⟩ ∧
    decodeItem s.cfg (.text []) = .rejected .blankLine := by decide

/-- A state of pass 1 with a 3-bit address counter. -/
def narrowCounter (a : Nat) : State :=
  { State.start { defaultParams with addrW := some 3 } [addLine] with addr := a }

/-- The last address a 3-bit counter has, 4: the line is retained; and an unbounded counter. -/
theorem witness_PassOneAssignsAddress_fits :
    (narrowCounter 4).ioAvailable = true ∧ (narrowCounter 4).phase = .pass1 ∧ (narrowCounter 4).input = [addLine] ∧
    itemLabel addLine = none ∧ (∀ w, (narrowCounter 4).cfg.addrW = some w → (narrowCounter 4).addr + 4 ≤ 2 ^ w) ∧
    (∀ w, (State.start defaultParams [addLine]).cfg.addrW = some w → 0 + 4 ≤ 2 ^ w) := by
  refine ⟨rfl, rfl, rfl, by decide, ?_, ?_⟩
  · intro w h; cases h; decide
  · intro w h; cases h
theorem witness_PassOneAssignsAddress_overflow :
    (narrowCounter 8).ioAvailable = true ∧ (narrowCounter 8).phase = .pass1 ∧ (narrowCounter 8).input = [addLine] ∧
    itemLabel addLine = none ∧ (narrowCounter 8).cfg.addrW = some 3 ∧ 2 ^ 3 < (narrowCounter 8).addr + 4 := by decide
theorem witness_PassOneBindsLabel :
    let s := State.start defaultParams [.text "loop:".toList, addLine]
    s.ioAvailable = true ∧ s.phase = .pass1 ∧ s.input = [.text "loop:".toList, addLine] ∧
    itemLabel (.text "loop:".toList) = some "loop".toList := by decide
theorem witness_PassesEndInOrder :
    (State.reset.ioAvailable = true ∧ State.reset.phase = .pass1 ∧ State.reset.input = []) ∧
    (let s := { midRun with cursor := 3 }
     s.ioAvailable = true ∧ s.phase = .pass2 ∧ s.retained.length ≤ s.cursor) ∧
    (let s := { State.reset with phase := .done }
     s.ioAvailable = true ∧ s.phase = .done) := by decide
theorem witness_OnlyFaultIsIoUnavailable : State.reset.current = none := by decide
theorem witness_IoUnavailableAbortsRun : { midRun with ioAvailable := false }.ioAvailable = false := by decide

/-- The one line under the cursor, every class wired: RegisterRowsEmitPackedWord, ImmediateRowsEmitPackedWord,
StoreRowsEmitPackedWord, BranchRowsEmitPackedWord, UpperAndJumpRowsEmitPackedWord, PortCommandsEmitPackedWord,
UpperPortCommandEmitsPackedWord,
ReservedCodesRaiseBadFormat, EveryInstructionCompletes. -/
theorem witness_RowsAndPortCommands :
    midRun.current = some ⟨8, addLine⟩ ∧ Format.R ∈ midRun.cfg.wired ∧ Format.I ∈ midRun.cfg.wired ∧
    Format.S ∈ midRun.cfg.wired ∧ Format.SB ∈ midRun.cfg.wired ∧ Format.U ∈ midRun.cfg.wired ∧
    Format.UJ ∈ midRun.cfg.wired := by decide
theorem witness_UnwiredClassRaisesNotWired :
    (atLine narrowParams addLine).current = some ⟨0, addLine⟩ ∧ (Instr.sw 5 2 8).format? = some .S ∧
    (Instr.packU 0 5 1).format? = some .U ∧ Format.S ∉ (atLine narrowParams addLine).cfg.wired ∧
    Format.U ∉ (atLine narrowParams addLine).cfg.wired := by decide
/-- A line of an unwired class with good operands, with a bad register and a bad immediate, and with no operand. -/
theorem witness_UnwiredClassRaisesNotWired_line :
    (let s := atLine narrowParams (.text "sw x99, x2, y".toList)
     s.ioAvailable = true ∧ s.phase = .pass2 ∧ s.current = some ⟨0, .text "sw x99, x2, y".toList⟩ ∧
     tokens "sw x99, x2, y".toList = ["sw".toList, "x99,".toList, "x2,".toList, "y".toList] ∧
     tokens "sw".toList = ["sw".toList] ∧ classify s.cfg.catalog "sw".toList = some (.s 0b0100011 0b010) ∧
     Format.S ∉ s.cfg.wired) := by decide
theorem witness_LabelDefinitionLines :
    tokens " loop: ".toList = ["loop".toList ++ [':']] ∧ isIdentifier "loop".toList = true ∧
    itemLabel (.text " loop: ".toList) = some "loop".toList ∧ itemLabel (.text "1:".toList) = none ∧
    itemLabel (.text "loop :".toList) = none := by decide
theorem witness_EveryInstructionFrame :
    (∃ t, exec (.sw 14 2 8) midRun = .next t) ∧ ∃ t, exec .reservedFmt6 midRun = .next t := ⟨⟨_, rfl⟩, _, rfl⟩
theorem witness_RowsEmitTheOpcodeTableWord_classes :
    encodeWord (.sub 31 0 31) = some 0x41f00fb3#32 ∧ encodeWord (.addi 1 2 2048) = some 0x80010093#32 ∧
    encodeWord (.beq 1 2 (-4097)) = some 0x7e208fe3#32 ∧ encodeWord (.lui 5 (-524288)) = some 0x800002b7#32 ∧
    encodeWord (.jal 1 1048576) = some 0x800000ef#32 ∧ (Instr.lui 5 (-524288)).format? = some .U ∧
    [Format.R, .I, .S, .SB, .U, .UJ] = midRun.cfg.wired := by decide
theorem witness_RowsEmitTheOpcodeTableWord :
    encodeWord (.sw 14 2 8) = some 0x00e12423#32 ∧ (Instr.sw 14 2 8).format? = some .S ∧
    Format.S ∈ midRun.cfg.wired ∧ midRun.current = some ⟨8, addLine⟩ := by decide
theorem witness_StepOnPortCommandIsEncode :
    let s := atLine defaultParams (.port 6#69 [])
    s.ioAvailable = true ∧ s.phase = .pass2 ∧ s.current = some ⟨0, .port 6#69 []⟩ := by decide
theorem witness_UnknownMnemonicIsUnclassified :
    let s := atLine defaultParams (.text "mul a b c".toList)
    s.ioAvailable = true ∧ s.phase = .pass2 ∧ s.current = some ⟨0, .text "mul a b c".toList⟩ ∧
    tokens "mul a b c".toList = ["mul".toList, "a".toList, "b".toList, "c".toList] ∧
    outsideByFirstToken "mul".toList = none ∧ outsideByFirstToken "add,".toList = none ∧
    outsideByFirstToken "2add".toList = none ∧ outsideByFirstToken "/".toList = none ∧ ∀ e ∈ s.cfg.catalog, e.1 ≠ "mul".toList := by decide

/-- A line under the cursor of pass 2, with its tokens and the class of its mnemonic in the reference Catalog. -/
def lineReads (line : Text) (toks : List Text) (f : Format) : Bool :=
  let s := atLine defaultParams (.text line)
  s.ioAvailable && s.phase == .pass2 && s.current == some ⟨0, .text line⟩ && tokens line == toks &&
    (toks.head?.bind (classify s.cfg.catalog)).map FixedFields.format == some f && s.cfg.wired.contains f

theorem witness_BadRegisterLineHasNoRecord_R :
    lineReads "add x32, x2, x3".toList ["add".toList, "x32,".toList, "x2,".toList, "x3".toList] .R = true ∧
    resolve (stripSeparator "x32,".toList) = none ∧ resolve (stripSeparator "x01,".toList) = none ∧
    resolve (stripSeparator "ra".toList) = none := by decide
theorem witness_BadRegisterLineHasNoRecord_imm :
    lineReads "addi x32, x2, 5".toList ["addi".toList, "x32,".toList, "x2,".toList, "5".toList] .I = true ∧
    lineReads "sw x1, X2, -8".toList ["sw".toList, "x1,".toList, "X2,".toList, "-8".toList] .S = true ∧
    lineReads "beq zero, x2, 8".toList ["beq".toList, "zero,".toList, "x2,".toList, "8".toList] .SB = true ∧
    readInt (stripSeparator "5".toList) = some 5 ∧ readInt (stripSeparator "-8".toList) = some (-8) ∧
    resolve (stripSeparator "x32,".toList) = none ∧ resolve (stripSeparator "X2,".toList) = none ∧
    resolve (stripSeparator "zero,".toList) = none := by decide
theorem witness_BadRegisterLineHasNoRecord_upper :
    lineReads "lui x32, 1".toList ["lui".toList, "x32,".toList, "1".toList] .U = true ∧
    lineReads "jal ra, 4".toList ["jal".toList, "ra,".toList, "4".toList] .UJ = true ∧
    readInt (stripSeparator "1".toList) = some 1 ∧ readInt (stripSeparator "4".toList) = some 4 ∧
    resolve (stripSeparator "x32,".toList) = none ∧ resolve (stripSeparator "ra,".toList) = none := by decide
theorem witness_ClassifiedLineEmitsItsWord :
    lineReads "add x0, x31, x3".toList ["add".toList, "x0,".toList, "x31,".toList, "x3".toList] .R = true ∧
    lineReads "addi x0, x31, -9".toList ["addi".toList, "x0,".toList, "x31,".toList, "-9".toList] .I = true ∧
    lineReads "sw x0, x31, -9".toList ["sw".toList, "x0,".toList, "x31,".toList, "-9".toList] .S = true ∧
    lineReads "bne x0, x31, -9".toList ["bne".toList, "x0,".toList, "x31,".toList, "-9".toList] .SB = true ∧
    lineReads "lui x0, -9".toList ["lui".toList, "x0,".toList, "-9".toList] .U = true ∧
    lineReads "jal x31, -9".toList ["jal".toList, "x31,".toList, "-9".toList] .UJ = true ∧
    resolve (stripSeparator "x0,".toList) = some 0 ∧ resolve (stripSeparator "x31,".toList) = some 31 ∧
    resolve (stripSeparator "x3".toList) = some 3 ∧ readInt (stripSeparator "-9".toList) = some (-9) := by decide

/-- A step of pass 1 on a line, and one of pass 2: OutputsOnlyGrow, PassesWriteTheirOwnState, AddressAdvancesByFour. -/
theorem witness_StepsOfBothPasses :
    ((narrowCounter 4).phase = .pass1 ∧ ∃ t, step (narrowCounter 4) = .next t) ∧
    (midRun.phase ≠ .pass1 ∧ ∃ t, step midRun = .next t) :=
  ⟨⟨rfl, _, rfl⟩, by decide, _, rfl⟩

/-- An input of a label and two lines, the second a failing one. -/
def shortInput (second : Item) : List Item := [.text "start:".toList, addLine, second]

/-- Runs that are over: FinalAddressesCountLines, OneLineChangesNoOther (`before` is the label and the first line). -/
theorem witness_RunsThatEnd :
    itemLabel (.text "mul a b c".toList) = none ∧ itemLabel addLine = none ∧
    (∃ t, RunEnds defaultParams (shortInput (.text "mul a b c".toList)) t) ∧
    ∃ t, RunEnds defaultParams (shortInput addLine) t :=
  ⟨by decide, by decide, ⟨_, 7, rfl, rfl⟩, _, 7, rfl, rfl⟩
theorem witness_LegalInputRunsToTheEnd :
    defaultParams.addrW = none ∧
    ∀ it ∈ shortInput (.text "mul a b c".toList), inContract defaultParams it = true := by decide
theorem witness_LabelNamesItsBinding :
    (labelAddress midRun "end".toList = some 12) ∧ ("end".toList, 12) ∈ midRun.labels ∧
    ∀ b, ("end".toList, b) ∈ midRun.labels → b = 12 := by
  refine ⟨by decide, by decide, fun b h => ?_⟩
  cases h with
  | head => rfl
  | tail _ h => cases h
theorem witness_DecodeOfEncodedInstruction :
    (Instr.addi 31 0 (-2147483648)).wf = true ∧
    rowOf (.addi 31 0 (-2147483648)) = some (.addi, .i 31 0 (-2147483648)) ∧
    classify defaultParams.catalog (mnemonicName .addi) = some (mnemonicFixed .addi) ∧
    (mnemonicFixed .addi).format ∈ defaultParams.wired ∧
    (Instr.packUJ 127 31 2147483647).wf = true ∧ rowOf (.packUJ 127 31 2147483647) = none := by decide
theorem witness_DecodeOfTableWord :
    (Instr.beq 1 2 (-4096)).exact = true ∧ encodeWord (.beq 1 2 (-4096)) = some 0x80208063#32 := by decide
theorem witness_TableWordOfDecoded : decodeWord 0x7e208fe3#32 = some (.beq 1 2 4094) := by decide
theorem witness_ClassifyIsExact : (referenceCatalog.map Prod.fst).Nodup := by decide
/-- Widths 1 and 32, and the ends of the ranges at width 12: ToBitsIsTheModulus, ToBitsRoundTrip, ToBitsSigns. -/
theorem witness_ToBitsRanges :
    (1 ≤ 1 ∧ 1 ≤ 32) ∧ (1 ≤ 32 ∧ 32 ≤ 32) ∧
    (-2 ^ (12 - 1) ≤ (-2048 : Int) ∧ (-2048 : Int) < 2 ^ (12 - 1)) ∧ ((0 : Int) < 2048 ∧ (2048 : Int) ≤ 2 ^ (12 - 1)) ∧
    ((0 : Int) ≤ 2047 ∧ (2047 : Int) < 2 ^ (12 - 1)) ∧ ((2 : Int) ^ (12 - 1) ≤ 4095 ∧ (4095 : Int) < 2 ^ 12) := by
  decide
theorem witness_ToBitsSlicesAgree : 11 < 12 ∧ 11 < 13 := by decide

/-- A command with all fields but `fmt` and `pre` at zero. -/
def commandWith (fmt : BitVec 3) (pre : BitVec 2) : Command := { blankCommand with fmt := fmt, pre := pre }

/-- Each answer of ENCODE occurs. -/
theorem witness_EncodeAnswersByPriority :
    encodeMux referenceWired (commandWith 6 1) = .raised .unclassified ∧
    encodeMux referenceWired (commandWith 7 2) = .raised .badRegister ∧
    encodeMux referenceWired (commandWith 0 3) = .raised .badFormat ∧
    encodeMux referenceWired (commandWith 6 0) = .raised .badFormat ∧
    encodeMux referenceWired (commandWith 2 0) = .raised .notWired ∧
    encodeMux referenceWired (commandWith 5 0) = .word 0#32 := by decide
theorem witness_UpstreamStatusWins :
    (commandWith 0 3).pre = (commandWith 7 3).pre ∧ (commandWith 0 3).pre ≠ 0 := by decide
theorem witness_UnusedFieldsDoNotMatter :
    ∀ f : BitVec 3, (commandWith f 0).pre = 0 ∧ (commandWith f 0).fmt = f := by decide
theorem midRun_big_inv : { midRun with cfg := { defaultParams with byteOrder := .big } }.Inv := by
  obtain ⟨a, b, c, d, e, f, g, h, i, j, k, l, m, n, _⟩ := midRun_inv
  exact ⟨a, b, c, d, e, f, g, h, i, j, k, l, m, n, fun _ h => by cases h⟩

theorem witness_ImageHoldsEachWordOnce :
    { midRun with cfg := { defaultParams with byteOrder := .big } }.Inv ∧ midRun.Inv ∧
    midRun.cfg.byteOrder = .little ∧ ⟨0, 0x003100b3, addLine.line⟩ ∈ midRun.records :=
  ⟨midRun_big_inv, midRun_inv, rfl, by decide⟩

end Sys2Proof.Tests
end

section
/-! Proofs of the statements about the Line Driver's state (10_state.md): what every step keeps, what it may write and what
it reads. -/

namespace Sys2Proof.Machine

/-! ## Address slots

RECORDS and DIAG obey the same rules about their addresses; both are said once, for a list whose entries have the addresses
`f`. -/

/-- Strictly increasing addresses stay so when one above all of them is appended. -/
theorem pairwise_lt_append_singleton {α : Type} {f : α → Nat} {l : List α} {x : α}
    (hl : (l.map f).Pairwise (· < ·)) (hx : ∀ y ∈ l, f y < f x) : ((l ++ [x]).map f).Pairwise (· < ·) := by
  simpa [List.pairwise_append, hl] using hx

/-- Slots of the lines before `c`, with slot `c` appended, are slots of the lines before `c + 1`. -/
theorem slots_append_singleton {α : Type} {f : α → Nat} {l : List α} {x : α} {c : Nat}
    (hl : ∀ y ∈ l, f y % addrStep = 0 ∧ f y < addrStep * c) (hx : f x = addrStep * c) :
    ∀ y ∈ l ++ [x], f y % addrStep = 0 ∧ f y < addrStep * (c + 1) := by
  simp only [addrStep] at hl hx ⊢
  intro y hy
  rcases List.mem_append.1 hy with hy | hy
  · have := hl y hy
    omega
  · cases List.mem_singleton.1 hy
    omega

/-- Slots of the lines before `c` are slots of the lines before `c + 1`. -/
theorem slots_weaken {α : Type} {f : α → Nat} {l : List α} {c : Nat}
    (hl : ∀ y ∈ l, f y % addrStep = 0 ∧ f y < addrStep * c) :
    ∀ y ∈ l, f y % addrStep = 0 ∧ f y < addrStep * (c + 1) :=
  fun y hy => ⟨(hl y hy).1, (hl y hy).2.trans_le (Nat.mul_le_mul_left _ c.le_succ)⟩

/-- Lines that stand in the slots of their places still do when one more is appended in the next slot (R41, R190). -/
theorem assigned_append_singleton {l : List Retained} {x : Retained}
    (hl : ∀ k r, l[k]? = some r → r.addr = addrStep * k) (hx : x.addr = addrStep * l.length) :
    ∀ k r, (l ++ [x])[k]? = some r → r.addr = addrStep * k := by
  intro k r hr
  rcases lt_or_ge k l.length with hk | hk
  · exact hl k r (List.getElem?_append_left hk ▸ hr)
  · rw [List.getElem?_append_right hk, List.getElem?_singleton] at hr
    split at hr
    next hz =>
      cases hr
      rw [hx, le_antisymm hk (Nat.sub_eq_zero_iff_le.1 hz)]
    next => cases hr

/-- A finite counter that has room for one more line does not pass its end by taking it (R22, U9). -/
theorem addrFits_le {w a : Nat} (h : addrFits (some w) a = true) : a + addrStep ≤ 2 ^ w := by
  simpa [addrFits] using h

/-! ## The invariant, operation by operation -/

section Inv
variable {s : State} (h : s.Inv)
include h

/-- The line under the cursor stands in the slot the cursor counts (R41, R190). -/
theorem State.Inv.current_slot {r : Retained} (hc : s.current = some r) :
    r.addr = addrStep * s.cursor ∧ s.cursor < s.retained.length :=
  ⟨h.assigned _ _ hc, (List.getElem?_eq_some_iff.1 hc).1⟩

theorem State.Inv.endPass1 (hi : s.input = []) : (endPass1 s).Inv :=
  { h with
    pass1_first := nofun
    input_read := fun _ => hi
    done_all := nofun }

theorem State.Inv.bindLabel (name : Text) (rest : List Item) (hp : s.phase = .pass1) :
    (bindLabel name { s with input := rest }).Inv :=
  { h with
    input_read := fun hne => absurd hp hne
    label_slots := by
      have haddr : s.addr % addrStep = 0 := by simp [h.addr_counts]
      intro b hb
      rcases List.mem_append.1 hb with hb | hb
      · exact h.label_slots b hb
      · cases List.mem_singleton.1 hb
        exact ⟨haddr, le_rfl⟩ }

theorem State.Inv.assignAddress (it : Item) (rest : List Item) (hp : s.phase = .pass1)
    (hf : addrFits s.cfg.addrW s.addr = true) : (assignAddress it { s with input := rest }).Inv :=
  { h with
    addr_counts := by simp [h.addr_counts, Nat.mul_add]
    assigned := assigned_append_singleton h.assigned h.addr_counts
    cursor_le := by
      have := h.cursor_le
      simp; omega
    input_read := fun hne => absurd hp hne
    done_all := fun hd => by cases hp.symm.trans hd
    label_slots := fun b hb => ⟨(h.label_slots b hb).1, (h.label_slots b hb).2.trans (Nat.le_add_right _ _)⟩
    addr_fits := fun w hw => addrFits_le (hw ▸ hf) }

theorem State.Inv.endRun (hp : s.phase = .pass2) (hc : s.current = none) : (endRun s).Inv :=
  { h with
    pass1_first := nofun
    input_read := fun _ => h.input_read (by simp [hp])
    done_all := fun _ => le_antisymm h.cursor_le (List.getElem?_eq_none_iff.1 hc) }

theorem State.Inv.emitRecord {r : Retained} (w : Word) (hp : s.phase = .pass2) (hc : s.current = some r) :
    (emitRecord r w s).Inv := by
  obtain ⟨hslot, hlt⟩ := h.current_slot hc
  exact { h with
    cursor_le := hlt
    pass1_first := fun h1 => by cases hp.symm.trans h1
    done_all := fun hd => by cases hp.symm.trans hd
    handled := by
      have := h.handled
      simp; omega
    records_increase := pairwise_lt_append_singleton h.records_increase
      fun y hy => hslot ▸ (h.record_slots y hy).2
    record_slots := slots_append_singleton h.record_slots hslot
    diag_slots := slots_weaken h.diag_slots
    slots_apart := by
      intro x hx d hd
      rcases List.mem_append.1 hx with hx | hx
      · exact h.slots_apart x hx d hd
      · cases List.mem_singleton.1 hx
        exact (hslot ▸ (h.diag_slots d hd).2).ne' }

theorem State.Inv.raiseStatus {r : Retained} {e : Status} (he : isLineError e = true) (hp : s.phase = .pass2)
    (hc : s.current = some r) : (raiseStatus r e s).Inv := by
  obtain ⟨hslot, hlt⟩ := h.current_slot hc
  exact { h with
    cursor_le := hlt
    pass1_first := fun h1 => by cases hp.symm.trans h1
    done_all := fun hd => by cases hp.symm.trans hd
    handled := by
      have := h.handled
      simp; omega
    diag_increase := pairwise_lt_append_singleton h.diag_increase
      fun y hy => hslot ▸ (h.diag_slots y hy).2
    record_slots := slots_weaken h.record_slots
    diag_slots := slots_append_singleton h.diag_slots hslot
    slots_apart := by
      intro x hx d hd
      rcases List.mem_append.1 hd with hd | hd
      · exact h.slots_apart x hx d hd
      · cases List.mem_singleton.1 hd
        exact (hslot ▸ (h.record_slots x hx).2).ne
    diag_errors := by
      intro d hd
      rcases List.mem_append.1 hd with hd | hd
      · exact h.diag_errors d hd
      · cases List.mem_singleton.1 hd
        exact he }

theorem State.Inv.finishLine {r : Retained} {res : Result} (hp : s.phase = .pass2) (hc : s.current = some r)
    (hres : lineResult s.cfg r.item = .ok res) : (finishLine r res s).Inv := by
  cases res with
  | word w => exact h.emitRecord w hp hc
  | raised e => exact h.raiseStatus (lineResult_raised hres) hp hc

end Inv

/-- Settles O3, case by case of what a step can do. -/
theorem stepKeepsSoundState : Obligations.StepKeepsSoundState := by
  intro s t h hstep
  obtain ⟨-, ⟨-, hi, rfl⟩ | ⟨it, rest, name, hp, -, -, rfl⟩ | ⟨it, rest, hp, -, -, hf, rfl⟩ |
    ⟨r, res, hp, hc, hres, rfl⟩ | ⟨hp, hc, rfl⟩ | ⟨-, rfl⟩⟩ := step_cases hstep
  · exact h.endPass1 hi
  · exact h.bindLabel name rest hp
  · exact h.assignAddress it rest hp hf
  · exact h.finishLine hp hc hres
  · exact h.endRun hp hc
  · exact h

/-! ## What a step writes -/

@[simp] theorem records_isPrefix_finishLine (r : Retained) (res : Result) (s : State) :
    s.records <+: (finishLine r res s).records := by
  cases res <;> simp

@[simp] theorem diag_isPrefix_finishLine (r : Retained) (res : Result) (s : State) :
    s.diag <+: (finishLine r res s).diag := by
  cases res <;> simp

/-- A step keeps the parameters, and every list it writes is only appended to (R23 to R27). -/
theorem step_extends {s t : State} (hstep : step s = .next t) :
    t.cfg = s.cfg ∧ s.records <+: t.records ∧ s.diag <+: t.diag ∧ s.labels <+: t.labels ∧ s.retained <+: t.retained := by
  obtain ⟨-, ⟨-, -, rfl⟩ | ⟨it, rest, name, -, -, -, rfl⟩ | ⟨it, rest, -, -, -, -, rfl⟩ |
    ⟨r, res, -, -, -, rfl⟩ | ⟨-, -, rfl⟩ | ⟨-, rfl⟩⟩ := step_cases hstep <;> simp

/-- Putting parameters beside an outcome of the Line Driver loses nothing of it (log 2). -/
theorem withParams_eq_next {p : Params} {o : Host.Outcome LineDriver Fault Refusal} {e : LineDriver} :
    withParams p o = .next (e.withParams p) ↔ o = .next e := by
  cases o with
  | next d =>
    exact ⟨fun h => congrArg (Host.Outcome.next ·.toLineDriver) (Host.Outcome.next.inj h), fun h => by cases h; rfl⟩
  | fault r => exact ⟨nofun, nofun⟩
  | refused r => exact ⟨nofun, nofun⟩

/-- Settles O29: each case of a step appends or leaves alone, and `step` is `stepWith` beside the parameters. -/
theorem outputsOnlyGrow : Obligations.OutputsOnlyGrow :=
  ⟨fun _ _ => step_extends, fun _ _ _ => withParams_eq_next⟩

/-- Settles O30, case by case of what a step can do. -/
theorem passesWriteTheirOwnState : Obligations.PassesWriteTheirOwnState := by
  intro s t hstep
  obtain ⟨-, ⟨hp, -, rfl⟩ | ⟨it, rest, name, hp, -, -, rfl⟩ | ⟨it, rest, hp, -, -, -, rfl⟩ |
    ⟨r, res, hp, -, -, rfl⟩ | ⟨hp, -, rfl⟩ | ⟨hp, rfl⟩⟩ := step_cases hstep <;> simp [hp]

/-- Settles O31: only `assignAddress`, on an instruction line of pass 1, writes ADDR. -/
theorem addressAdvancesByFour : Obligations.AddressAdvancesByFour := by
  intro s t hstep
  obtain ⟨-, ⟨-, -, rfl⟩ | ⟨it, rest, name, -, -, -, rfl⟩ | ⟨it, rest, hp, hi, hl, -, rfl⟩ |
    ⟨r, res, -, -, -, rfl⟩ | ⟨-, -, rfl⟩ | ⟨-, rfl⟩⟩ := step_cases hstep
  · exact .inl ⟨rfl, rfl⟩
  · exact .inl ⟨rfl, rfl⟩
  · exact .inr ⟨rfl, hp, it, rest, hi, hl, rfl⟩
  · exact .inl ⟨finishLine_addr r res s, finishLine_retained r res s⟩
  · exact .inl ⟨rfl, rfl⟩
  · exact .inl ⟨rfl, rfl⟩

/-! ## LABELS is not read -/

/-- The state with another LABELS table. -/
def State.withLabels (s : State) (ls : List (Text × Nat)) : State := { s with labels := ls }

/-- An outcome with LABELS taken out of its next state. -/
def forgetLabels : Outcome → Outcome
  | .next t => .next (t.withLabels [])
  | .fault r => .fault r
  | .refused r => .refused r

section Labels
variable (s : State) (ls : List (Text × Nat))

@[simp] theorem withLabels_cfg : (s.withLabels ls).cfg = s.cfg := rfl
@[simp] theorem withLabels_phase : (s.withLabels ls).phase = s.phase := rfl
@[simp] theorem withLabels_input : (s.withLabels ls).input = s.input := rfl
@[simp] theorem withLabels_addr : (s.withLabels ls).addr = s.addr := rfl
@[simp] theorem withLabels_ioAvailable : (s.withLabels ls).ioAvailable = s.ioAvailable := rfl
@[simp] theorem withLabels_current : (s.withLabels ls).current = s.current := rfl
@[simp] theorem withLabels_withLabels (ls' : List (Text × Nat)) :
    (s.withLabels ls).withLabels ls' = s.withLabels ls' := rfl

@[simp] theorem finishLine_withLabels (r : Retained) (res : Result) :
    finishLine r res (s.withLabels ls) = (finishLine r res s).withLabels ls := by
  cases res <;> rfl

theorem forgetLabels_readLine (it : Item) :
    forgetLabels (readLine it (s.withLabels ls)) = forgetLabels (readLine it s) := by
  unfold readLine
  cases itemLabel it with
  | some name => rfl
  | none =>
    rw [withLabels_cfg, withLabels_addr]
    cases addrFits s.cfg.addrW s.addr <;> rfl

theorem forgetLabels_stepPass1 :
    forgetLabels (stepPass1 (s.withLabels ls)) = forgetLabels (stepPass1 s) := by
  unfold stepPass1
  rw [withLabels_input]
  cases s.input with
  | nil => rfl
  | cons it rest => exact forgetLabels_readLine { s with input := rest } ls it

theorem forgetLabels_stepPass2 :
    forgetLabels (stepPass2 (s.withLabels ls)) = forgetLabels (stepPass2 s) := by
  unfold stepPass2
  rw [withLabels_current]
  cases hc : s.current with
  | none => rfl
  | some r =>
    cases hres : lineResult s.cfg r.item with
    | error why => simp [encodeLine_of_reject (s := s) hres, encodeLine_of_reject (s := s.withLabels ls) hres]
    | ok res =>
      simp [encodeLine_of_result hc hres, encodeLine_of_result (s := s.withLabels ls) hc hres, forgetLabels]

/-- A step is the same, up to LABELS itself, whatever LABELS holds (R186, U2). -/
theorem forgetLabels_step : forgetLabels (step (s.withLabels ls)) = forgetLabels (step s) := by
  rw [step_eq, step_eq, withLabels_ioAvailable, withLabels_phase]
  cases s.ioAvailable with
  | false => rfl
  | true =>
    cases s.phase with
    | pass1 => exact forgetLabels_stepPass1 s ls
    | pass2 => exact forgetLabels_stepPass2 s ls
    | done => rfl

end Labels

/-- Settles O32: outcomes that agree once LABELS is forgotten are of one kind. -/
theorem labelsAreNeverRead : Obligations.LabelsAreNeverRead := by
  intro s ls
  have h : forgetLabels (step { s with labels := ls }) = forgetLabels (step s) := forgetLabels_step s ls
  generalize step s = o, step { s with labels := ls } = o' at h
  match o, o', h with
  | .next t, .next t', h => exact (Host.Outcome.next.inj h).symm
  | .fault a, .fault b, h => exact (Host.Outcome.fault.inj h).symm
  | .refused a, .refused b, h => exact (Host.Outcome.refused.inj h).symm

/-! ## Reading LABELS -/

theorem mem_labelDefinitions {s : State} {name : Text} {a : Nat} :
    a ∈ labelDefinitions s name ↔ (name, a) ∈ s.labels := by
  simp [labelDefinitions]

/-- The address read for a name is one of its definitions, whichever index is picked (U5, log 11). -/
theorem mem_of_labelAddress {s : State} {name : Text} {a : Nat} (h : labelAddress s name = some a) :
    a ∈ labelDefinitions s name := by
  unfold labelAddress at h
  split at h
  next => cases h
  next b hd => simp [hd, Option.some.inj h]
  next b c more hd => exact hd ▸ List.mem_of_getElem? h

/-- A name with a definition has an address: the index picked is taken modulo their number. -/
theorem exists_labelAddress {s : State} {name : Text} (h : labelDefinitions s name ≠ []) :
    ∃ b, labelAddress s name = some b := by
  unfold labelAddress
  split
  next hd => exact absurd hd h
  next b hd => exact ⟨b, rfl⟩
  next b c more hd => exact ⟨_, List.getElem?_eq_getElem (Nat.mod_lt _ (by simp))⟩

/-- Settles O38: an address read is a binding, and every bound name has one; the third clause follows from these two. -/
theorem labelNamesItsBinding : Obligations.LabelNamesItsBinding := by
  intro s name
  have hmem a (h : labelAddress s name = some a) : (name, a) ∈ s.labels :=
    mem_labelDefinitions.1 (mem_of_labelAddress h)
  have hex a (h : (name, a) ∈ s.labels) : ∃ b, labelAddress s name = some b :=
    exists_labelAddress (List.ne_nil_of_mem (mem_labelDefinitions.2 h))
  refine ⟨hmem, hex, fun a ha hall => ?_⟩
  obtain ⟨b, hb⟩ := hex a ha
  rw [hb, hall b (hmem b hb)]

/-! ## Reset and the start of a run -/

/-- Settles O1, by evaluating reset and the constant tables. -/
theorem resetStartsARunEmpty : Obligations.ResetStartsARunEmpty :=
  ⟨rfl, rfl, rfl, rfl, rfl, by simp [regmap], by decide, fun _ _ => ⟨rfl, rfl, rfl, rfl, rfl⟩⟩

theorem start_inv (p : Params) (items : List Item) : (State.start p items).Inv := by
  constructor <;> simp

theorem start_outputsFollowLines (p : Params) (items : List Item) : (State.start p items).OutputsFollowLines := by
  constructor <;> simp

/-- Settles O2: reset is the start of a run over the empty input. -/
theorem soundStateAtReset : Obligations.SoundStateAtReset :=
  ⟨start_inv defaultParams [], start_outputsFollowLines defaultParams [],
    fun p items => ⟨start_inv p items, start_outputsFollowLines p items⟩⟩

end Sys2Proof.Machine
end

section
/-! Proofs of the statements about what a run leaves behind (20_memory.md): the results a run is on its way to, the
dropped offset bit and the bytes of RECORDS. -/

namespace Sys2Proof.Machine

/-! ## Whole runs -/

theorem run_succ_eq_next {k : Nat} {s t : State} :
    Host.Core.run Sys2Proof.core (k + 1) s = .next t ↔
      ∃ s', step s = .next s' ∧ Host.Core.run Sys2Proof.core k s' = .next t := by
  have hcore : Sys2Proof.core.step s = step s := rfl
  simp only [Host.Core.run, hcore]
  cases step s <;> simp

/-- What every step keeps, every run keeps. -/
theorem run_keeps {P : State → Prop} (hstep : ∀ s t, P s → step s = .next t → P t) (k : Nat) (s t : State)
    (hs : P s) (hrun : Host.Core.run Sys2Proof.core k s = .next t) : P t := by
  induction k generalizing s with
  | zero =>
    cases hrun
    exact hs
  | succ k ih =>
    obtain ⟨s', hs', hrun⟩ := run_succ_eq_next.1 hrun
    exact ih s' (hstep s s' hs hs') hrun

/-- What holds at the start of a run and every step keeps holds where the run is over. -/
theorem RunEnds.keeps {P : State → Prop} {p : Params} {items : List Item} {t : State} (h : RunEnds p items t)
    (hstart : P (State.start p items)) (hstep : ∀ s t, P s → step s = .next t → P t) : P t := by
  obtain ⟨k, hrun, -⟩ := h
  exact run_keeps hstep k _ t hstart hrun

theorem RunEnds.done {p : Params} {items : List Item} {t : State} (h : RunEnds p items t) : t.phase = .done := by
  obtain ⟨-, -, hdone⟩ := h
  exact hdone

theorem RunEnds.inv {p : Params} {items : List Item} {t : State} (h : RunEnds p items t) : t.Inv :=
  h.keeps (start_inv p items) stepKeepsSoundState

/-! ## What pass 1 will make of its input -/

/-- The lines pass 1 will retain of an input, the first instruction line at address `a` (R184). -/
def assignedFrom (a : Nat) : List Item → List Retained
  | [] => []
  | it :: rest =>
    match itemLabel it with
    | some _ => assignedFrom a rest
    | none => ⟨a, it⟩ :: assignedFrom (a + addrStep) rest

/-- The labels pass 1 will bind in an input, the first instruction line at address `a` (R182). -/
def boundFrom (a : Nat) : List Item → List (Text × Nat)
  | [] => []
  | it :: rest =>
    match itemLabel it with
    | some name => (name, a) :: boundFrom a rest
    | none => boundFrom (a + addrStep) rest

@[simp] theorem instructionLines_nil : instructionLines [] = 0 := rfl
@[simp] theorem assignedFrom_nil (a : Nat) : assignedFrom a [] = [] := rfl
@[simp] theorem boundFrom_nil (a : Nat) : boundFrom a [] = [] := rfl

section Lines
variable {it : Item} {name : Text} (a : Nat) (rest : List Item)

theorem instructionLines_cons_label (h : itemLabel it = some name) :
    instructionLines (it :: rest) = instructionLines rest := by
  simp [instructionLines, h]

theorem instructionLines_cons_instr (h : itemLabel it = none) :
    instructionLines (it :: rest) = instructionLines rest + 1 := by
  simp [instructionLines, h]

theorem assignedFrom_cons_label (h : itemLabel it = some name) :
    assignedFrom a (it :: rest) = assignedFrom a rest := by
  simp [assignedFrom, h]

theorem assignedFrom_cons_instr (h : itemLabel it = none) :
    assignedFrom a (it :: rest) = ⟨a, it⟩ :: assignedFrom (a + addrStep) rest := by
  simp [assignedFrom, h]

theorem boundFrom_cons_label (h : itemLabel it = some name) :
    boundFrom a (it :: rest) = (name, a) :: boundFrom a rest := by
  simp [boundFrom, h]

theorem boundFrom_cons_instr (h : itemLabel it = none) :
    boundFrom a (it :: rest) = boundFrom (a + addrStep) rest := by
  simp [boundFrom, h]

end Lines

theorem instructionLines_append (xs ys : List Item) :
    instructionLines (xs ++ ys) = instructionLines xs + instructionLines ys := by
  simp [instructionLines]

/-- The lines after `xs` are assigned addresses from the one behind the instruction lines of `xs` (R190). -/
theorem assignedFrom_append (a : Nat) (xs ys : List Item) :
    assignedFrom a (xs ++ ys) = assignedFrom a xs ++ assignedFrom (a + addrStep * instructionLines xs) ys := by
  induction xs generalizing a with
  | nil => simp
  | cons it xs ih =>
    rw [List.cons_append]
    cases h : itemLabel it with
    | some name => simp only [assignedFrom_cons_label _ _ h, instructionLines_cons_label _ h, ih]
    | none =>
      simp only [assignedFrom_cons_instr _ _ h, instructionLines_cons_instr _ h, ih, List.cons_append]
      congr 3; ring

/-- The labels after `xs` are bound to addresses from the one behind the instruction lines of `xs` (R190). -/
theorem boundFrom_append (a : Nat) (xs ys : List Item) :
    boundFrom a (xs ++ ys) = boundFrom a xs ++ boundFrom (a + addrStep * instructionLines xs) ys := by
  induction xs generalizing a with
  | nil => simp
  | cons it xs ih =>
    rw [List.cons_append]
    cases h : itemLabel it with
    | some name => simp only [boundFrom_cons_label _ _ h, instructionLines_cons_label _ h, ih, List.cons_append]
    | none =>
      simp only [boundFrom_cons_instr _ _ h, instructionLines_cons_instr _ h, ih]
      congr 2; ring

/-! ## What pass 2 makes of one line -/

section Result
variable {p : Params} {r : Retained} {w : Word} {e : Status}

theorem recordOf_of_word (h : lineResult p r.item = .ok (.word w)) : recordOf p r = some ⟨r.addr, w, r.item.line⟩ := by
  simp [recordOf, h]

theorem recordOf_of_raised (h : lineResult p r.item = .ok (.raised e)) : recordOf p r = none := by
  simp [recordOf, h]

theorem diagOf_of_word (h : lineResult p r.item = .ok (.word w)) : diagOf p r = none := by
  simp [diagOf, h]

theorem diagOf_of_raised (h : lineResult p r.item = .ok (.raised e)) : diagOf p r = some ⟨e, r.addr, r.item.line⟩ := by
  simp [diagOf, h]

/-- A line's record stands at the line's address. -/
theorem recordOf_addr {x : Record} (h : recordOf p r = some x) : x.addr = r.addr := by
  unfold recordOf at h
  split at h
  · cases h; rfl
  · cases h

/-- A line's DIAG entry stands at the line's address. -/
theorem diagOf_addr {d : Diag} (h : diagOf p r = some d) : d.addr = r.addr := by
  unfold diagOf at h
  split at h
  · cases h; rfl
  · cases h

end Result

/-! ## The results a run is on its way to

Every step moves a part of the forecast into the state and changes none of it; so the forecast at the start of a run is what
the run leaves. -/

/-- The lines pass 2 has still to handle: retained ones, and those pass 1 will retain. -/
def State.pending (s : State) : List Retained := (s.retained ++ assignedFrom s.addr s.input).drop s.cursor

/-- The results a state's run has when it is over. -/
def State.forecast (s : State) : Results where
  addr := s.addr + addrStep * instructionLines s.input
  labels := s.labels ++ boundFrom s.addr s.input
  records := s.records ++ s.pending.filterMap (recordOf s.cfg)
  diag := s.diag ++ s.pending.filterMap (diagOf s.cfg)

theorem forecast_endPass1 (s : State) : (endPass1 s).forecast = s.forecast := rfl

theorem forecast_endRun (s : State) : (endRun s).forecast = s.forecast := rfl

section Forecast
variable {s : State} {it : Item} {rest : List Item} {name : Text} {r : Retained} {res : Result}

theorem forecast_bindLabel (hi : s.input = it :: rest) (hl : itemLabel it = some name) :
    (bindLabel name { s with input := rest }).forecast = s.forecast := by
  simp [State.forecast, State.pending, hi, instructionLines_cons_label _ hl, boundFrom_cons_label _ _ hl,
    assignedFrom_cons_label _ _ hl]

theorem forecast_assignAddress (hi : s.input = it :: rest) (hl : itemLabel it = none) :
    (assignAddress it { s with input := rest }).forecast = s.forecast := by
  simp [State.forecast, State.pending, hi, instructionLines_cons_instr _ hl, boundFrom_cons_instr _ _ hl,
    assignedFrom_cons_instr _ _ hl]
  ring

/-- The line under the cursor is the first pending one, and handling it leaves the others pending. -/
theorem pending_eq_cons (hc : s.current = some r) (res : Result) :
    s.pending = r :: (finishLine r res s).pending := by
  have hlt : s.cursor < s.retained.length := (List.getElem?_eq_some_iff.1 hc).1
  have hget : (s.retained ++ assignedFrom s.addr s.input)[s.cursor]? = some r :=
    (List.getElem?_append_left hlt).trans hc
  rw [State.pending, List.drop_eq_getElem?_toList_append, hget]
  simp [State.pending]

theorem forecast_finishLine (hc : s.current = some r) (hres : lineResult s.cfg r.item = .ok res) :
    (finishLine r res s).forecast = s.forecast := by
  have hpend := pending_eq_cons hc res
  cases res with
  | word w => simp [State.forecast, hpend, recordOf_of_word hres, diagOf_of_word hres]
  | raised e => simp [State.forecast, hpend, recordOf_of_raised hres, diagOf_of_raised hres]

end Forecast

/-- Every step keeps the forecast. -/
theorem step_forecast {s t : State} (hstep : step s = .next t) : t.forecast = s.forecast := by
  obtain ⟨-, ⟨-, -, rfl⟩ | ⟨it, rest, name, -, hi, hl, rfl⟩ | ⟨it, rest, -, hi, hl, -, rfl⟩ |
    ⟨r, res, -, hc, hres, rfl⟩ | ⟨-, -, rfl⟩ | ⟨-, rfl⟩⟩ := step_cases hstep
  · exact forecast_endPass1 s
  · exact forecast_bindLabel hi hl
  · exact forecast_assignAddress hi hl
  · exact forecast_finishLine hc hres
  · exact forecast_endRun s
  · rfl

/-- A run that is over holds its forecast: no line is left to read or to handle (R243). -/
theorem State.Inv.forecast_of_done {s : State} (h : s.Inv) (hd : s.phase = .done) : s.forecast = s.results := by
  have hinput : s.input = [] := h.input_read (by simp [hd])
  simp [State.forecast, State.pending, State.results, hinput, h.done_all hd]

/-- What a run that is over leaves is a function of its parameters and its input. -/
theorem RunEnds.results_eq {p : Params} {items : List Item} {t : State} (h : RunEnds p items t) :
    t.results = (State.start p items).forecast := by
  rw [← h.inv.forecast_of_done h.done]
  exact h.keeps (P := fun s => s.forecast = (State.start p items).forecast) rfl
    fun s t hs hstep => (step_forecast hstep).trans hs

section Finished
variable {p : Params} {items : List Item} {t : State} (h : RunEnds p items t)
include h

theorem RunEnds.addr_eq : t.addr = addrStep * instructionLines items := by
  simpa [State.results, State.forecast] using congrArg Results.addr h.results_eq

theorem RunEnds.labels_eq : t.labels = boundFrom 0 items := by
  simpa [State.results, State.forecast] using congrArg Results.labels h.results_eq

theorem RunEnds.records_eq : t.records = (assignedFrom 0 items).filterMap (recordOf p) := by
  simpa [State.results, State.forecast, State.pending] using congrArg Results.records h.results_eq

theorem RunEnds.diag_eq : t.diag = (assignedFrom 0 items).filterMap (diagOf p) := by
  simpa [State.results, State.forecast, State.pending] using congrArg Results.diag h.results_eq

end Finished

/-! ## One line and the others -/

/-- An instruction line is assigned the slot behind the lines before it, and moves those after it by one slot. -/
theorem assignedFrom_around {before : List Item} {l : Item} (after : List Item) (hl : itemLabel l = none) :
    assignedFrom 0 (before ++ l :: after) = assignedFrom 0 before ++
      ⟨4 * instructionLines before, l⟩ :: assignedFrom (4 * instructionLines before + 4) after := by
  simp [assignedFrom_append, assignedFrom_cons_instr _ _ hl, addrStep]

/-- Where the entries of lines stand at their lines' addresses, the entries away from the address of one line do not depend
on that line. -/
theorem entries_elsewhere {α : Type} {f : Retained → Option α} {addr : α → Nat}
    (hf : ∀ r x, f r = some x → addr x = r.addr) (before after : List Retained) (slot : Nat) (it : Item) :
    ((before ++ ⟨slot, it⟩ :: after).filterMap f).filter (fun x => addr x ≠ slot) =
      ((before ++ after).filterMap f).filter (fun x => addr x ≠ slot) := by
  cases hr : f ⟨slot, it⟩ with
  | none => simp [hr]
  | some x => simp [hr, hf _ _ hr]

/-- Settles O36: a finished run holds the entries of its input's lines, each at its line's address, and one instruction line
counts as much as another. -/
theorem oneLineChangesNoOther : Obligations.OneLineChangesNoOther := by
  intro p before after l l' t t' hl hl' h h' slot
  refine ⟨?_, ?_, ?_, ?_⟩
  · rw [h.addr_eq, h'.addr_eq, instructionLines_append, instructionLines_append, instructionLines_cons_instr _ hl,
      instructionLines_cons_instr _ hl']
  · rw [h.labels_eq, h'.labels_eq, boundFrom_append, boundFrom_append, boundFrom_cons_instr _ _ hl,
      boundFrom_cons_instr _ _ hl']
  · rw [h.records_eq, h'.records_eq, assignedFrom_around after hl, assignedFrom_around after hl',
      entries_elsewhere fun _ _ => recordOf_addr, entries_elsewhere fun _ _ => recordOf_addr]
  · rw [h.diag_eq, h'.diag_eq, assignedFrom_around after hl, assignedFrom_around after hl',
      entries_elsewhere fun _ _ => diagOf_addr, entries_elsewhere fun _ _ => diagOf_addr]

/-! ## The dropped offset bit -/

/-- An odd immediate and the even one below it differ in bit 0 of their pattern alone (R45). -/
theorem toBits_odd_div_two (k : Int) (n : Nat) :
    (toBits (2 * k + 1) n).toNat / 2 = (toBits (2 * k) n).toNat / 2 := by
  cases n with
  | zero => simp [BitVec.of_length_zero]
  | succ n =>
    have hpos : (0 : Int) < 2 ^ n := by positivity
    have heven : 2 * k % 2 ^ (n + 1) = 2 * (k % 2 ^ n) := by
      rw [pow_succ', Int.mul_emod_mul_of_pos _ _ two_pos]
    have hodd : (2 * k + 1) % 2 ^ (n + 1) = 2 * (k % 2 ^ n) + 1 := by
      rw [← Int.emod_add_emod, heven, pow_succ']
      have := Int.emod_nonneg k hpos.ne'
      have := Int.emod_lt_of_pos k hpos
      exact Int.emod_eq_of_lt (by omega) (by omega)
    simp only [toBits_eq_ofInt, BitVec.toNat_ofInt]
    push_cast
    rw [heven, hodd]
    omega

/-- A slice that leaves out bit 0 is the same for an odd immediate and the even one below it. -/
theorem toBits_odd_slice (k : Int) {n hi lo : Nat} (h : 1 ≤ lo) :
    (toBits (2 * k + 1) n).extractLsb hi lo = (toBits (2 * k) n).extractLsb hi lo := by
  obtain ⟨lo, rfl⟩ := Nat.exists_eq_add_of_le' h
  apply BitVec.eq_of_toNat_eq
  simp only [BitVec.extractLsb_toNat, Nat.shiftRight_succ_inside, toBits_odd_div_two]

/-- Settles O55: no slice in the SB and UJ packers holds bit 0. -/
theorem offsetBitZeroIsDropped : Obligations.OffsetBitZeroIsDropped := by
  intro op f3 rd rs1 rs2 k
  constructor
  · simp [packSB, toBits_odd_slice k]
  · simp [packUJ, toBits_odd_slice k]

/-! ## The bytes of RECORDS -/

theorem recordCells_addrs (o : ByteOrder) (r : Record) :
    (recordCells o r).map Prod.fst = [r.addr, r.addr + 1, r.addr + 2, r.addr + 3] := by
  cases o <;> rfl

theorem recordCells_length (o : ByteOrder) (r : Record) : (recordCells o r).length = 4 := by
  cases o <;> rfl

theorem recordCells_little (r : Record) : recordCells .little r =
    [(r.addr, r.word.extractLsb 7 0), (r.addr + 1, r.word.extractLsb 15 8), (r.addr + 2, r.word.extractLsb 23 16),
      (r.addr + 3, r.word.extractLsb 31 24)] := rfl

theorem recordCells_big (r : Record) : recordCells .big r =
    [(r.addr, r.word.extractLsb 31 24), (r.addr + 1, r.word.extractLsb 23 16), (r.addr + 2, r.word.extractLsb 15 8),
      (r.addr + 3, r.word.extractLsb 7 0)] := rfl

theorem image_addrs (s : State) : (image s).map Prod.fst =
    s.records.flatMap (fun r => [r.addr, r.addr + 1, r.addr + 2, r.addr + 3]) := by
  simp [image, List.map_flatMap, recordCells_addrs]

theorem image_length (s : State) : (image s).length = 4 * s.records.length := by
  simp [image, List.length_flatMap, recordCells_length, mul_comm]

/-- A record's bytes are bytes of RECORDS. -/
theorem recordCells_subset_image {s : State} {r : Record} (hr : r ∈ s.records) :
    recordCells s.cfg.byteOrder r ⊆ image s :=
  fun _ hc => List.mem_flatMap.2 ⟨r, hr, hc⟩

/-- Records stand in different slots, so the bytes of one end before those of the next begin (R44, R47). -/
theorem State.Inv.records_apart {s : State} (h : s.Inv) :
    s.records.Pairwise (fun a b => a.addr + 4 ≤ b.addr) := by
  refine (List.pairwise_map.1 h.records_increase).imp_of_mem fun {a b} ha hb hlt => ?_
  have hslot_a := (h.record_slots a ha).1
  have hslot_b := (h.record_slots b hb).1
  simp only [addrStep] at hslot_a hslot_b
  omega

theorem State.Inv.image_increase {s : State} (h : s.Inv) : ((image s).map Prod.fst).Pairwise (· < ·) := by
  rw [image_addrs, List.pairwise_flatMap]
  refine ⟨fun r _ => by simp, h.records_apart.imp fun {a b} hab x hx y hy => ?_⟩
  have hxa : x < a.addr + 4 := by simp at hx; omega
  have hyb : b.addr ≤ y := by simp at hy; omega
  omega

/-- Settles O60: each record's four bytes are among the bytes of RECORDS, in the order of the parameter. -/
theorem imageHoldsEachWordOnce : Obligations.ImageHoldsEachWordOnce := by
  intro s h
  refine ⟨h.image_increase, image_length s, fun r hr => ⟨fun ho => ?_, fun ho => ?_⟩⟩
  · simpa [ho, recordCells_little] using recordCells_subset_image hr
  · simpa [ho, recordCells_big] using recordCells_subset_image hr

end Sys2Proof.Machine
end

section
/-! Proofs of the statements about encodings (30_encoding.md): port bits and source lines. -/

namespace Sys2Proof.Machine

/-! ## Slices -/

/-- A slice is a value when the bits agree. -/
theorem extractLsb_eq_of_getLsbD {n hi lo : Nat} {w : BitVec n} {b : BitVec (hi - lo + 1)}
    (h : ∀ i, i < hi - lo + 1 → w.getLsbD (lo + i) = b.getLsbD i) : w.extractLsb hi lo = b := by
  refine BitVec.eq_of_getLsbD_eq fun i hi => ?_
  rw [BitVec.getLsbD_extractLsb, h i hi]
  simp
  omega

/-! ## Commands and port bits (R62) -/

/-- Every port bit is a bit of one field of the command (log 3). -/
theorem packCommand_getLsbD (c : Command) (k : Nat) : (packCommand c).getLsbD k =
    if k < 3 then c.fmt.getLsbD k else if k < 10 then c.opcode.getLsbD (k - 3)
    else if k < 13 then c.funct3.getLsbD (k - 10) else if k < 20 then c.funct7.getLsbD (k - 13)
    else if k < 25 then c.rd.getLsbD (k - 20) else if k < 30 then c.rs1.getLsbD (k - 25)
    else if k < 35 then c.rs2.getLsbD (k - 30) else if k < 67 then c.imm.getLsbD (k - 35)
    else c.pre.getLsbD (k - 67) := by
  change (c.pre ++ c.imm ++ c.rs2 ++ c.rs1 ++ c.rd ++ c.funct7 ++ c.funct3 ++ c.opcode ++ c.fmt :
    BitVec (2 + 32 + 5 + 5 + 5 + 7 + 3 + 7 + 3)).getLsbD k = _
  simp only [BitVec.getLsbD_append]
  grind

/-- Each field stands where `unpackCommand` reads it. -/
theorem unpackCommand_packCommand (c : Command) : unpackCommand (packCommand c) = c := by
  obtain ⟨fmt, opcode, funct3, funct7, rd, rs1, rs2, imm, pre⟩ := c
  simp only [unpackCommand, Command.mk.injEq]
  refine ⟨?_, ?_, ?_, ?_, ?_, ?_, ?_, ?_, ?_⟩
  all_goals
    refine extractLsb_eq_of_getLsbD fun i hi => ?_
    rw [packCommand_getLsbD]
    grind

/-- The nine fields leave no port bit out. -/
theorem packCommand_unpackCommand (b : PortBits) : packCommand (unpackCommand b) = b := by
  refine BitVec.eq_of_getLsbD_eq fun k hk => ?_
  simp only [packCommand_getLsbD, unpackCommand, BitVec.getLsbD_extractLsb]
  grind

/-- Settles O43: the fields' places are disjoint and cover the port bits. -/
theorem portBitsHoldTheCommand : Obligations.PortBitsHoldTheCommand :=
  ⟨unpackCommand_packCommand, packCommand_unpackCommand⟩

/-! ## Decimal integers and register names (R77, R90) -/

/-- Every digit's character is read back, and is none of the characters that structure a line. -/
theorem digitChar_spec : ∀ d < 10,
    digitValue (digitChar d) = some d ∧ isSpace (digitChar d) = false ∧ digitChar d ≠ ',' := by
  decide

theorem readDigits_append_digitChar {d : Nat} (hd : d < 10) (t : Text) (acc : Nat) :
    readDigits acc (t ++ [digitChar d]) = (readDigits acc t).map (· * 10 + d) := by
  induction t generalizing acc with
  | nil => simp [readDigits, digitChar_spec d hd]
  | cons c cs ih =>
    simp only [List.cons_append, readDigits]
    cases digitValue c with
    | none => rfl
    | some e => exact ih _

theorem decimalFrom_ne_nil (fuel n : Nat) : decimalFrom (fuel + 1) n ≠ [] := by
  unfold decimalFrom
  split <;> simp

theorem readDigits_decimalFrom {fuel n : Nat} (h : n < fuel) : readDigits 0 (decimalFrom fuel n) = some n := by
  induction fuel generalizing n with
  | zero => omega
  | succ fuel ih =>
    unfold decimalFrom
    split
    next hn => simpa [readDigits] using readDigits_append_digitChar hn [] 0
    next hn =>
      rw [readDigits_append_digitChar (by omega), ih (by omega), Option.map_some, Nat.div_add_mod' n 10]

theorem readNat_decimal (n : Nat) : readNat (decimal n) = some n := by
  have h := readDigits_decimalFrom n.lt_succ_self
  unfold decimal
  cases ht : decimalFrom (n + 1) n with
  | nil => exact absurd ht (decimalFrom_ne_nil n n)
  | cons c cs => rwa [ht] at h

/-- A numeral without sign is read as it stands: no digit is `-`. -/
theorem readInt_of_readNat {t : Text} {n : Nat} (h : readNat t = some n) : readInt t = some (n : Int) := by
  unfold readInt
  split
  · simp [readNat, readDigits, digitValue] at h
  · simp [h]

theorem readInt_showInt (v : Int) : readInt (showInt v) = some v := by
  cases v with
  | ofNat n => exact readInt_of_readNat (readNat_decimal n)
  | negSucc n => simp [showInt, readInt, readNat_decimal, Int.negSucc_eq]

theorem resolve_regName (r : Reg) : resolve (regName r.toNat) = some r := by
  have h : ∀ n < 32, resolve (regName n) = some (BitVec.ofNat 5 n) := by decide
  simpa using h r.toNat r.isLt

/-! ## Tokens of a written line (R76, R92) -/

/-- A text that stays one token and has no separator to strip. -/
def PlainToken (t : Text) : Prop := t ≠ [] ∧ ∀ c ∈ t, isSpace c = false ∧ c ≠ ','

theorem tokensFrom_of_noSpace {t : Text} (ht : ∀ c ∈ t, isSpace c = false) (cur rest : Text) :
    tokensFrom cur (t ++ rest) = tokensFrom (t.reverse ++ cur) rest := by
  induction t generalizing cur with
  | nil => rfl
  | cons c cs ih =>
    obtain ⟨hc, hcs⟩ := List.forall_mem_cons.1 ht
    simp [tokensFrom, hc, ih hcs]

theorem tokens_word {t : Text} (hne : t ≠ []) (ht : ∀ c ∈ t, isSpace c = false) : tokens t = [t] := by
  have h := tokensFrom_of_noSpace ht [] []
  simpa [tokens, tokensFrom, hne] using h

theorem tokens_word_space {t : Text} (hne : t ≠ []) (ht : ∀ c ∈ t, isSpace c = false) (rest : Text) :
    tokens (t ++ ' ' :: rest) = t :: tokens rest := by
  have hsp : isSpace ' ' = true := by decide
  rw [tokens, tokensFrom_of_noSpace ht]
  simp [tokens, tokensFrom, hne, hsp]

theorem PlainToken.stripSeparator {t : Text} (h : PlainToken t) : stripSeparator t = t :=
  if_neg fun hl => (h.2 _ (List.mem_of_getLast? hl)).2 rfl

theorem stripSeparator_comma (t : Text) : stripSeparator (t ++ [',']) = t := by
  simp [stripSeparator]

/-- Splitting at white space and stripping the separators takes apart what `joinOperands` puts together. -/
theorem tokens_joinOperands {ts : List Text} (h : ∀ t ∈ ts, PlainToken t) :
    (tokens (joinOperands ts)).map stripSeparator = ts := by
  induction ts with
  | nil => rfl
  | cons t ts ih =>
    obtain ⟨ht, hts⟩ := List.forall_mem_cons.1 h
    obtain ⟨hne, hc⟩ := id ht
    cases ts with
    | nil => simp [joinOperands, tokens_word hne fun c hm => (hc c hm).1, ht.stripSeparator]
    | cons u us =>
      have hsp : ∀ c ∈ t ++ [','], isSpace c = false := by
        simp only [List.forall_mem_append, List.forall_mem_singleton]
        exact ⟨fun c hm => (hc c hm).1, by decide⟩
      have hline : joinOperands (t :: u :: us) = (t ++ [',']) ++ ' ' :: joinOperands (u :: us) := by
        simp [joinOperands]
      rw [hline, tokens_word_space (by simp) hsp, List.map_cons, stripSeparator_comma, ih hts]

theorem decimalFrom_plain (fuel n : Nat) : ∀ c ∈ decimalFrom fuel n, isSpace c = false ∧ c ≠ ',' := by
  induction fuel generalizing n with
  | zero => simp [decimalFrom]
  | succ fuel ih =>
    unfold decimalFrom
    split
    next hn => simpa using (digitChar_spec n hn).2
    next hn =>
      rw [List.forall_mem_append, List.forall_mem_singleton]
      exact ⟨ih _, (digitChar_spec _ (by omega)).2⟩

theorem plainToken_decimal (n : Nat) : PlainToken (decimal n) :=
  ⟨decimalFrom_ne_nil n n, decimalFrom_plain _ n⟩

theorem PlainToken.cons {t : Text} (h : PlainToken t) {c : Char} (hc : isSpace c = false ∧ c ≠ ',') :
    PlainToken (c :: t) :=
  ⟨by simp, List.forall_mem_cons.2 ⟨hc, h.2⟩⟩

theorem plainToken_regName (n : Nat) : PlainToken (regName n) := (plainToken_decimal n).cons (by decide)

theorem plainToken_showInt (v : Int) : PlainToken (showInt v) := by
  cases v with
  | ofNat n => exact plainToken_decimal n
  | negSucc n => exact (plainToken_decimal _).cons (by decide)

theorem plainToken_operandTexts (o : Operands) : ∀ t ∈ operandTexts o, PlainToken t := by
  cases o <;> simp [operandTexts, plainToken_regName, plainToken_showInt]

/-- Operands are read back from the texts they are written as, in every class's order (R77). -/
theorem readOperands_operandTexts (o : Operands) : readOperands o.format (operandTexts o) = .operands o := by
  cases o <;>
    simp [Operands.format, operandTexts, readOperands, readRegRegImm, readRegImm, resolve_regName, readInt_showInt]

/-! ## Mnemonics -/

theorem mem_allMnemonics (m : Mnemonic) : m ∈ allMnemonics := by
  cases m <;> decide

theorem mnemonicOf_mnemonicName (m : Mnemonic) : mnemonicOf (mnemonicName m) = some m := by
  cases m <;> rfl

theorem mnemonicName_word (m : Mnemonic) : mnemonicName m ≠ [] ∧ ∀ c ∈ mnemonicName m, isSpace c = false := by
  cases m <;> simp [mnemonicName, isSpace]

theorem instrOfEntry_row (m : Mnemonic) (o : Operands) :
    instrOfEntry (mnemonicName m) (mnemonicFixed m) o = instrOfRow m o := by
  simp [instrOfEntry, mnemonicOf_mnemonicName]

/-! ## Decode of encode (R62, R77) -/

/-- The line of a mnemonic with operands of its Catalog entry's class is classified, and its operands read, as written. -/
theorem decodeLine_lineOf {p : Params} {m : Mnemonic} {o : Operands}
    (hcat : classify p.catalog (mnemonicName m) = some (mnemonicFixed m))
    (hwired : (mnemonicFixed m).format ∈ p.wired) (hclass : o.format = (mnemonicFixed m).format)
    {i : Instr} (hrow : instrOfRow m o = some i) :
    decodeLine p (lineOf (mnemonicName m) o) = .instr i := by
  obtain ⟨hne, hsp⟩ := mnemonicName_word m
  have htok : tokens (lineOf (mnemonicName m) o) = mnemonicName m :: tokens (joinOperands (operandTexts o)) := by
    simpa [lineOf] using tokens_word_space hne hsp _
  rw [← hclass] at hwired
  simp only [decodeLine, htok, hcat, if_pos hwired, tokens_joinOperands (plainToken_operandTexts o),
    ← hclass, readOperands_operandTexts, instrOfEntry_row, hrow]

/-- The signed reading of the port is the raw immediate where that fits (R11, R62). -/
theorem toInt_toBits_port {v : Int} (h : fitsPort v = true) : (toBits v 32).toInt = v := by
  obtain ⟨hlo, hhi⟩ := of_decide_eq_true h
  rw [toBits_eq_ofInt, BitVec.toInt_ofInt, Int.bmod_eq_of_le (by omega) (by omega)]

/-- The command of an instruction that is no Catalog row is that instruction, as the multiplexer's codes say (R63). -/
theorem decodeCommand_commandOf {i : Instr} (hwf : i.wf = true) (hrow : rowOf i = none) :
    decodeCommand (commandOf i) = .instr i := by
  cases i
  case packR => rfl
  case packI => exact congrArg (fun v => Decoded.instr (.packI _ _ _ _ v)) (toInt_toBits_port hwf)
  case packS => exact congrArg (fun v => Decoded.instr (.packS _ _ _ _ v)) (toInt_toBits_port hwf)
  case packSB => exact congrArg (fun v => Decoded.instr (.packSB _ _ _ _ v)) (toInt_toBits_port hwf)
  case packU => exact congrArg (fun v => Decoded.instr (.packU _ _ v)) (toInt_toBits_port hwf)
  case packUJ => exact congrArg (fun v => Decoded.instr (.packUJ _ _ v)) (toInt_toBits_port hwf)
  case reservedFmt6 => rfl
  case reservedFmt7 => rfl
  all_goals cases hrow

/-- Settles O40: a row's instruction by its source line, every other by its port bits. -/
theorem decodeOfEncodedInstruction : Obligations.DecodeOfEncodedInstruction := by
  intro p i hwf hp
  cases hrow : rowOf i with
  | none =>
    simp only [encode, hrow, decodeItem, unpackCommand_packCommand]
    exact decodeCommand_commandOf hwf hrow
  | some r =>
    obtain ⟨m, o⟩ := r
    obtain ⟨hback, -, hclass, -⟩ := Laws.TableRow.all i m o hrow
    obtain ⟨hcat, hwired⟩ := hp m o hrow
    simp only [encode, hrow, decodeItem]
    exact decodeLine_lineOf hcat hwired hclass hback

/-- Settles O39, by running the decoder on the words. -/
theorem writtenWordsDecode : Obligations.WrittenWordsDecode := by
  unfold Obligations.WrittenWordsDecode
  decide
end Sys2Proof.Machine
end

section
/-! Proofs of the statements about encodings (30_encoding.md): the produced words of the Catalog rows. -/

namespace Sys2Proof.Machine

/-! ## Patterns read back (R11, R110) -/

/-- `signed_n` is the two's-complement reading (R11). -/
theorem signed_eq_toInt {n : Nat} (b : BitVec n) : signed b = b.toInt := by
  rw [BitVec.toInt_eq_msb_cond, BitVec.msb_eq_getLsbD_last]
  rfl

theorem signed_toBits (v : Int) (n : Nat) : signed (toBits v n) = v.bmod (2 ^ n) := by
  rw [signed_eq_toInt, toBits_eq_ofInt, BitVec.toInt_ofInt]

theorem toNat_toBits (v : Int) (n : Nat) : ((toBits v n).toNat : Int) = v % 2 ^ n := by
  have := Int.emod_nonneg v (b := 2 ^ n) (by positivity)
  rw [toBits_eq_ofInt, BitVec.toNat_ofInt, Int.toNat_of_nonneg]
  · norm_cast
  · simpa

/-- Encoding keeps the parity. -/
theorem signed_toBits_emod_two (v : Int) (n : Nat) : signed (toBits v (n + 1)) % 2 = v % 2 := by
  have h : (2 : Int) ∣ (2 ^ (n + 1) : Nat) := by exact_mod_cast dvd_pow_self 2 n.succ_ne_zero
  rw [signed_toBits, ← Int.emod_emod_of_dvd _ h, Int.bmod_emod, Int.emod_emod_of_dvd _ h]

theorem toInt_append_zero {n : Nat} (b : BitVec (n + 1)) : (b ++ 0#1).toInt = 2 * b.toInt := by
  simp [BitVec.toInt_append]

/-- Clearing bit 0 of a pattern takes its parity off the value. -/
theorem toInt_clearBitZero {n : Nat} (b : BitVec (n + 2)) :
    (b.extractLsb (n + 1) 1 ++ 0#1).toInt = b.toInt - b.toInt % 2 := by
  have hsplit : b = b.extractLsb (n + 1) 1 ++ b.extractLsb 0 0 := by
    refine BitVec.eq_of_getLsbD_eq fun i hi => ?_
    simp only [BitVec.getLsbD_append, BitVec.getLsbD_extractLsb]
    grind
  have hb := congrArg BitVec.toInt hsplit
  have hbit : (b.extractLsb 0 0).toNat < 2 := (b.extractLsb 0 0).isLt
  rw [BitVec.toInt_append, if_neg (by simp)] at hb
  rw [toInt_append_zero]
  omega

/-! ## Recovered immediates (R72) -/

section
variable (op : Opcode) (f3 : Funct3) (rd rs1 rs2 : Reg) (v : Int)

/-! The immediate's bits in the word, put together again, are the pattern the packer took them from; bit 0 of an SB or UJ
offset is not among them. -/

theorem recoveredImm_packI : recoveredImm .I (packI op f3 rd rs1 v) = signed (toBits v 12) := by
  rw [signed_eq_toInt, recoveredImm]
  refine congrArg BitVec.toInt (extractLsb_eq_of_getLsbD fun i hi => ?_)
  rw [packI_getLsbD]
  grind

theorem recoveredImm_packS : recoveredImm .S (packS op f3 rs1 rs2 v) = signed (toBits v 12) := by
  rw [signed_eq_toInt, recoveredImm]
  refine congrArg BitVec.toInt (BitVec.eq_of_getLsbD_eq fun i hi => ?_)
  simp only [BitVec.getLsbD_append, BitVec.getLsbD_extractLsb, packS_getLsbD]
  grind

theorem recoveredImm_packSB : recoveredImm .SB (packSB op f3 rs1 rs2 v) = signed (toBits v 13) - v % 2 := by
  rw [← signed_toBits_emod_two v 12, signed_eq_toInt, ← toInt_clearBitZero, recoveredImm]
  refine congrArg BitVec.toInt (BitVec.eq_of_getLsbD_eq fun i hi => ?_)
  simp only [BitVec.getLsbD_append, BitVec.getLsbD_extractLsb, packSB_getLsbD]
  grind

theorem recoveredImm_packUJ : recoveredImm .UJ (packUJ op rd v) = signed (toBits v 21) - v % 2 := by
  rw [← signed_toBits_emod_two v 20, signed_eq_toInt, ← toInt_clearBitZero, recoveredImm]
  refine congrArg BitVec.toInt (BitVec.eq_of_getLsbD_eq fun i hi => ?_)
  simp only [BitVec.getLsbD_append, BitVec.getLsbD_extractLsb, packUJ_getLsbD]
  grind

theorem packU_upperBits : (packU op rd v).extractLsb 31 12 = toBits v 20 := by
  refine extractLsb_eq_of_getLsbD fun i hi => ?_
  rw [packU_getLsbD]
  grind

theorem recoveredImm_packU : recoveredImm .U (packU op rd v) = v % 2 ^ 20 := by
  rw [recoveredImm, packU_upperBits, toNat_toBits]

theorem upperImm_packU : upperImm (packU op rd v) = BitVec.ofInt 32 (v % 2 ^ 20 * 4096) := by
  rw [upperImm, packU_upperBits, ← toNat_toBits]
  apply BitVec.eq_of_toNat_eq
  have := (toBits v 20).isLt
  rw [BitVec.toNat_append, BitVec.toNat_ofInt, BitVec.toNat_ofNat, Nat.zero_mod, Nat.or_zero, Nat.shiftLeft_eq]
  omega

/-! The recovered immediate is the raw one exactly in the format's range (`exactFor`). -/

theorem recoveredImm_packI_eq_self : recoveredImm .I (packI op f3 rd rs1 v) = v ↔ exactFor .I v := by
  rw [recoveredImm_packI, signed_toBits, exactFor, decide_eq_true_iff, Int.bmod_def]
  split <;> omega

theorem recoveredImm_packS_eq_self : recoveredImm .S (packS op f3 rs1 rs2 v) = v ↔ exactFor .S v := by
  rw [recoveredImm_packS, signed_toBits, exactFor, decide_eq_true_iff, Int.bmod_def]
  split <;> omega

theorem recoveredImm_packSB_eq_self : recoveredImm .SB (packSB op f3 rs1 rs2 v) = v ↔ exactFor .SB v := by
  rw [recoveredImm_packSB, signed_toBits, exactFor, decide_eq_true_iff, Int.bmod_def]
  split <;> omega

theorem recoveredImm_packU_eq_self : recoveredImm .U (packU op rd v) = v ↔ exactFor .U v := by
  rw [recoveredImm_packU, exactFor, decide_eq_true_iff]
  omega

theorem recoveredImm_packUJ_eq_self : recoveredImm .UJ (packUJ op rd v) = v ↔ exactFor .UJ v := by
  rw [recoveredImm_packUJ, signed_toBits, exactFor, decide_eq_true_iff, Int.bmod_def]
  split <;> omega

end

/-- Settles O54, format by format; the ranges are those of `exactFor`. -/
theorem recoveredImmediates : Obligations.RecoveredImmediates := by
  intro op f3 rd rs1 rs2 v
  refine ⟨recoveredImm_packI .., recoveredImm_packS .., recoveredImm_packSB .., upperImm_packU ..,
    recoveredImm_packUJ .., ?_, ?_, ?_, ?_, ?_⟩
  · simpa [exactFor] using recoveredImm_packI_eq_self op f3 rd rs1 v
  · simpa [exactFor] using recoveredImm_packS_eq_self op f3 rs1 rs2 v
  · simpa [exactFor] using recoveredImm_packSB_eq_self op f3 rs1 rs2 v
  · simpa [exactFor] using recoveredImm_packU_eq_self op rd v
  · simpa [exactFor] using recoveredImm_packUJ_eq_self op rd v

/-! ## Operands in a word (R72, R157) -/

theorem packWith_rd {f : Format} (hS : f ≠ .S) (hSB : f ≠ .SB) (c : Command) :
    (packWith f c).extractLsb 11 7 = c.rd := by
  refine extractLsb_eq_of_getLsbD fun i hi => ?_
  cases f <;> simp only [packWith, packR_getLsbD, packI_getLsbD, packU_getLsbD, packUJ_getLsbD] <;> grind

theorem packWith_rs1 {f : Format} (hU : f ≠ .U) (hUJ : f ≠ .UJ) (c : Command) :
    (packWith f c).extractLsb 19 15 = c.rs1 := by
  refine extractLsb_eq_of_getLsbD fun i hi => ?_
  cases f <;> simp only [packWith, packR_getLsbD, packI_getLsbD, packS_getLsbD, packSB_getLsbD] <;> grind

theorem packWith_rs2 {f : Format} (hI : f ≠ .I) (hU : f ≠ .U) (hUJ : f ≠ .UJ) (c : Command) :
    (packWith f c).extractLsb 24 20 = c.rs2 := by
  refine extractLsb_eq_of_getLsbD fun i hi => ?_
  cases f <;> simp only [packWith, packR_getLsbD, packS_getLsbD, packSB_getLsbD] <;> grind

theorem recoveredImm_packWith {f : Format} {c : Command} (hR : f ≠ .R) (h : exactFor f c.imm.toInt = true) :
    recoveredImm f (packWith f c) = c.imm.toInt := by
  cases f
  case R => exact absurd rfl hR
  case I => exact (recoveredImm_packI_eq_self ..).2 h
  case S => exact (recoveredImm_packS_eq_self ..).2 h
  case SB => exact (recoveredImm_packSB_eq_self ..).2 h
  case U => exact (recoveredImm_packU_eq_self ..).2 h
  case UJ => exact (recoveredImm_packUJ_eq_self ..).2 h

/-- The word of the operands' class determines their immediate (R72). -/
def exactOperands : Operands → Bool
  | .r .. => true
  | .i _ _ v => exactFor .I v
  | .s _ _ v => exactFor .S v
  | .sb _ _ v => exactFor .SB v
  | .u _ v => exactFor .U v
  | .uj _ v => exactFor .UJ v

theorem exact_of_rowOf {i : Instr} {m : Mnemonic} {o : Operands} (h : rowOf i = some (m, o)) :
    i.exact = exactOperands o := by
  cases i <;> cases h <;> rfl

/-- A range that a word determines lies within the port. -/
theorem fitsPort_of_exactFor {f : Format} {v : Int} (hR : f ≠ .R) (h : exactFor f v = true) : fitsPort v = true := by
  rw [fitsPort, decide_eq_true_iff]
  cases f
  case R => exact absurd rfl hR
  all_goals
    rw [exactFor, decide_eq_true_iff] at h
    omega

/-- An immediate in its class's exact range survives the port and the word. -/
theorem recoveredImm_of_exact {f : Format} {v : Int} {c : Command} (hv : exactFor f v = true) (hR : f ≠ .R)
    (hc : c.imm = toBits v 32) : recoveredImm f (packWith f c) = v := by
  have hport : c.imm.toInt = v := hc ▸ toInt_toBits_port (fitsPort_of_exactFor hR hv)
  rw [recoveredImm_packWith hR (hport ▸ hv), hport]

/-- The operand fields of a packed command are its operands, where the word determines the immediate. -/
theorem operandsOfWord_packWith {f : FixedFields} {o : Operands} {c : Command} (h : commandOfFields f o = some c)
    (hex : exactOperands o = true) : operandsOfWord f.format (packWith f.format c) = o := by
  unfold commandOfFields at h
  split at h <;> cases h
  · simp [operandsOfWord, FixedFields.format, packWith_rd, packWith_rs1, packWith_rs2, commandR]
  · simp [operandsOfWord, FixedFields.format, packWith_rd, packWith_rs1, recoveredImm_of_exact (f := .I) hex, commandI]
  · simp [operandsOfWord, FixedFields.format, packWith_rs1, packWith_rs2, recoveredImm_of_exact (f := .S) hex, commandS]
  · simp [operandsOfWord, FixedFields.format, packWith_rs1, packWith_rs2, recoveredImm_of_exact (f := .SB) hex, commandSB]
  · simp [operandsOfWord, FixedFields.format, packWith_rd, recoveredImm_of_exact (f := .U) hex, commandU]
  · simp [operandsOfWord, FixedFields.format, packWith_rd, recoveredImm_of_exact (f := .UJ) hex, commandUJ]

/-! ## Rows of the opcode table -/

/-- The bits a row of a class fixes: the opcode, and `funct3` and `funct7` where the class has them (R157). -/
theorem maskWord_getLsbD (f : Format) (k : Nat) : (maskWord f).getLsbD k =
    (decide (k < 7) || (decide (12 ≤ k ∧ k < 15) && decide (f ≠ .U ∧ f ≠ .UJ)) ||
      (decide (25 ≤ k ∧ k < 32) && decide (f = .R))) := by
  by_cases hk : k < 32
  · revert k
    cases f <;> decide
  · cases f <;> grind

theorem placed_getLsbD {n : Nat} (b : BitVec n) (hi lo position k : Nat) : (placed b hi lo position).getLsbD k =
    (decide (k < 32 ∧ position ≤ k ∧ k - position ≤ hi - lo) && b.getLsbD (lo + (k - position))) := by
  simp only [placed, BitVec.getLsbD_shiftLeft, BitVec.getLsbD_setWidth, BitVec.getLsbD_extractLsb]
  grind

/-- The operand fields of a word, placed again, are all its bits outside the mask. -/
theorem operandBits_operandsOfWord (f : Format) (w : Word) :
    operandBits (operandsOfWord f w) = w &&& ~~~maskWord f := by
  refine BitVec.eq_of_getLsbD_eq fun k hk => ?_
  cases f
  all_goals
    simp only [operandsOfWord, operandBits, recoveredImm, BitVec.ofInt_toInt, BitVec.getLsbD_or, BitVec.getLsbD_and,
      BitVec.getLsbD_not, BitVec.getLsbD_append, BitVec.getLsbD_extractLsb, placed_getLsbD, maskWord_getLsbD]
    grind

theorem rowMatches_iff {w : Word} {m : Mnemonic} :
    rowMatches w m = true ↔ w &&& maskWord (mnemonicFixed m).format = matchWord m := by
  simp [rowMatches]

/-- A row's word is the row's match number and the operand fields read from it. -/
theorem tableWord_operandsOfWord {w : Word} {m : Mnemonic} (h : rowMatches w m = true) :
    tableWord m (operandsOfWord (mnemonicFixed m).format w) = w := by
  rw [tableWord, operandBits_operandsOfWord, ← rowMatches_iff.1 h, ← BitVec.and_or_distrib_left, BitVec.or_not_self,
    BitVec.and_allOnes]

/-- The word of an entry's fixed fields, every operand bit 0. -/
def fixedWord : FixedFields → Word
  | .r op f3 f7 => packR op f3 f7 0 0 0
  | .i op f3 => packI op f3 0 0 0
  | .s op f3 => packS op f3 0 0 0
  | .sb op f3 => packSB op f3 0 0 0
  | .u op => packU op 0 0
  | .uj op => packUJ op 0 0

/-- The match numbers of the opcode table are the fixed fields of R99. -/
theorem matchWord_eq_fixedWord (m : Mnemonic) : matchWord m = fixedWord (mnemonicFixed m) := by
  cases m <;> rfl

theorem toBits_zero (n : Nat) : toBits 0 n = 0#n := by
  simp [toBits]

/-- Under the mask of its class a packed command shows its fixed fields. -/
theorem packWith_and_maskWord {f : FixedFields} {o : Operands} {c : Command} (h : commandOfFields f o = some c) :
    packWith f.format c &&& maskWord f.format = fixedWord f := by
  refine BitVec.eq_of_getLsbD_eq fun k hk => ?_
  unfold commandOfFields at h
  split at h <;> cases h
  all_goals
    simp only [packWith, commandR, commandI, commandS, commandSB, commandU, commandUJ, FixedFields.format, fixedWord,
      packR_getLsbD, packI_getLsbD, packS_getLsbD, packSB_getLsbD, packU_getLsbD, packUJ_getLsbD, toBits_zero,
      maskWord_getLsbD, BitVec.getLsbD_and, BitVec.getLsbD_extractLsb, BitVec.getLsbD_zero]
    grind

/-- A word is a word of at most one row. -/
theorem rowMatches_unique {w : Word} {a b : Mnemonic} (ha : rowMatches w a = true) (hb : rowMatches w b = true) :
    a = b := by
  have hdiff : ∀ a ∈ allMnemonics, ∀ b ∈ allMnemonics,
      matchWord a &&& maskWord (mnemonicFixed b).format = matchWord b &&& maskWord (mnemonicFixed a).format →
        a = b := by
    decide
  apply hdiff a (mem_allMnemonics a) b (mem_allMnemonics b)
  rw [← rowMatches_iff.1 ha, ← rowMatches_iff.1 hb, BitVec.and_assoc, BitVec.and_assoc, BitVec.and_comm (maskWord _)]

theorem decodeWord_eq_some {w : Word} {i : Instr} : decodeWord w = some i ↔
    ∃ m, rowMatches w m = true ∧ instrOfRow m (operandsOfWord (mnemonicFixed m).format w) = some i := by
  unfold decodeWord
  split
  next m hm =>
    have hmatch := List.find?_some hm
    constructor
    · exact fun h => ⟨m, hmatch, h⟩
    · rintro ⟨m', hmatch', h⟩
      cases rowMatches_unique hmatch hmatch'
      exact h
  next hn =>
    simpa using fun m hm => absurd hm (List.find?_eq_none.1 hn m (mem_allMnemonics m))

theorem rowOf_of_instrOfRow {m : Mnemonic} {o : Operands} {i : Instr} (h : instrOfRow m o = some i) :
    rowOf i = some (m, o) := by
  unfold instrOfRow at h
  split at h <;> split at h <;> cases h <;> rfl

/-- Settles O41: the packed command has the row's fixed bits and operand fields, so it is the row's word. -/
theorem decodeOfTableWord : Obligations.DecodeOfTableWord := by
  intro i w hex hw
  obtain ⟨⟨m, o⟩, hrow, rfl⟩ := Option.map_eq_some_iff.1 hw
  obtain ⟨hback, -, -, hcmd⟩ := Laws.TableRow.all i m o hrow
  have hmatch : rowMatches (packWith (mnemonicFixed m).format (commandOf i)) m = true := by
    rw [rowMatches_iff, packWith_and_maskWord hcmd, matchWord_eq_fixedWord]
  have hops := operandsOfWord_packWith hcmd (exact_of_rowOf hrow ▸ hex)
  have hword := tableWord_operandsOfWord hmatch
  rw [hops] at hword
  exact decodeWord_eq_some.2 ⟨m, hword ▸ hmatch, by rw [hword, hops, hback]⟩

theorem toInt_range {n : Nat} (b : BitVec (n + 1)) : -2 ^ n ≤ b.toInt ∧ b.toInt < 2 ^ n :=
  ⟨b.le_toInt, b.toInt_lt⟩

/-- What is recovered from a word is in the range that a word determines: an offset read back is even. -/
theorem exactFor_recoveredImm (f : Format) (w : Word) : exactFor f (recoveredImm f w) = true := by
  cases f
  case R => rfl
  all_goals rw [recoveredImm, exactFor, decide_eq_true_iff]
  case I =>
    have := toInt_range (w.extractLsb 31 20)
    omega
  case S =>
    have := toInt_range (w.extractLsb 31 25 ++ w.extractLsb 11 7)
    omega
  case SB =>
    have := toInt_range (w.extractLsb 31 31 ++ w.extractLsb 7 7 ++ w.extractLsb 30 25 ++ w.extractLsb 11 8)
    rw [toInt_append_zero]
    omega
  case U =>
    have := (w.extractLsb 31 12).isLt
    omega
  case UJ =>
    have := toInt_range (w.extractLsb 31 31 ++ w.extractLsb 19 12 ++ w.extractLsb 20 20 ++ w.extractLsb 30 21)
    rw [toInt_append_zero]
    omega

theorem exactOperands_operandsOfWord (f : Format) (w : Word) : exactOperands (operandsOfWord f w) = true := by
  cases f
  case R => rfl
  case I => exact exactFor_recoveredImm .I w
  case S => exact exactFor_recoveredImm .S w
  case SB => exact exactFor_recoveredImm .SB w
  case U => exact exactFor_recoveredImm .U w
  case UJ => exact exactFor_recoveredImm .UJ w

/-- Settles O42: mask and operand fields cover the word. -/
theorem tableWordOfDecoded : Obligations.TableWordOfDecoded := by
  intro w i h
  obtain ⟨m, hmatch, hinstr⟩ := decodeWord_eq_some.1 h
  have hrow := rowOf_of_instrOfRow hinstr
  constructor
  · rw [exact_of_rowOf hrow, exactOperands_operandsOfWord]
  · rw [encodeWord, hrow, Option.map_some, tableWord_operandsOfWord hmatch]

end Sys2Proof.Machine
end

section
/-! Proofs of the statements about the Register Resolver and the Instruction Catalog (40_resolver_and_catalog.md): the two
lookups, and the words of the Catalog rows. -/

namespace Sys2Proof.Machine

/-! ## Lookups (R90, R93) -/

/-- In a table with one entry a name, a lookup answers exactly the entries. -/
theorem lookup_eq_some_iff_mem {β : Type} {table : List (Text × β)} (h : (table.map Prod.fst).Nodup) {name : Text}
    {b : β} : table.lookup name = some b ↔ (name, b) ∈ table := by
  rw [List.lookup_eq_some_iff]
  constructor
  · rintro ⟨before, after, rfl, -⟩
    simp
  · intro hmem
    obtain ⟨before, after, rfl⟩ := List.append_of_mem hmem
    have hnew : name ∉ before.map Prod.fst := by
      rw [List.map_append, List.map_cons] at h
      obtain ⟨-, -, hapart⟩ := List.nodup_append.1 h
      exact fun hbefore => hapart name hbefore name List.mem_cons_self rfl
    exact ⟨before, after, rfl, fun p hp => bne_iff_ne.2 fun hpn => hnew (hpn ▸ List.mem_map_of_mem hp)⟩

/-- The register map holds each index under its own name and nothing else. -/
theorem mem_regmap {name : Text} {r : Reg} : (name, r) ∈ regmap ↔ name = regName r.toNat := by
  simp only [regmap, List.mem_map, List.mem_range, Prod.mk.injEq]
  constructor
  · rintro ⟨n, hn, rfl, rfl⟩
    rw [BitVec.toNat_ofNat, Nat.mod_eq_of_lt hn]
  · rintro rfl
    exact ⟨r.toNat, r.isLt, rfl, by simp⟩

/-- Settles O44: the 32 names are distinct, and each is `x` with its own index. -/
theorem resolveIsExact : Obligations.ResolveIsExact := by
  have hnames : (regmap.map Prod.fst).Nodup := by decide
  exact ⟨rfl, fun name r => (lookup_eq_some_iff_mem hnames).trans mem_regmap⟩

/-- Settles O45: the reference Catalog by running its check, every other by the lookup's entries. -/
theorem classifyIsExact : Obligations.ClassifyIsExact := by
  refine ⟨by decide, fun catalog m hnames => ?_⟩
  have hfound (f : FixedFields) : classify catalog m = some f ↔ (m, f) ∈ catalog := lookup_eq_some_iff_mem hnames
  refine ⟨hfound, ?_⟩
  rw [Option.eq_none_iff_forall_ne_some]
  exact forall_congr' fun f => not_congr (hfound f)

/-! ## An instruction of a wired class (R160, R168, R184) -/

/-- ENCODE on a command without upstream status, of a wired class. -/
theorem encodeMux_of_wired {wired : List Format} {c : Command} {f : Format} (hpre : c.pre = 0)
    (hfmt : fmtClass c.fmt = some f) (hwired : f ∈ wired) : encodeMux wired c = .word (packWith f c) := by
  simp [encodeMux, hpre, hfmt, hwired]

/-- The command of an instruction has the code of the instruction's class and no upstream status (R63). -/
theorem commandOf_class {i : Instr} {f : Format} (h : i.format? = some f) :
    (commandOf i).pre = 0 ∧ fmtClass (commandOf i).fmt = some f := by
  cases i <;> cases h <;> exact ⟨rfl, rfl⟩

/-- An instruction of a wired class emits its packer's word for the line under the cursor, and changes nothing else. -/
theorem exec_emits {i : Instr} {f : Format} {s : State} {r : Retained} {w : Word} (hformat : i.format? = some f)
    (hline : s.current = some r) (hwired : f ∈ s.cfg.wired) (hword : packWith f (commandOf i) = w) :
    exec i s = .next { s with records := s.records ++ [⟨r.addr, w, r.item.line⟩], cursor := s.cursor + 1 } := by
  obtain ⟨hpre, hfmt⟩ := commandOf_class hformat
  rw [exec_of_current i hline, encodeMux_of_wired hpre hfmt hwired, hword]
  rfl

/-! ## The words (R130 to R154) -/

section
variable (op : Opcode) (f3 : Funct3) (f7 : Funct7) (rd rs1 rs2 : Reg) (v : Int)

/-! A class's packer makes the same word of the immediate on the port as of the raw immediate: no packer takes more bits than
the port has. -/

theorem packWith_commandR : packWith .R (commandR op f3 f7 rd rs1 rs2) = packR op f3 f7 rd rs1 rs2 := rfl

theorem packWith_commandI : packWith .I (commandI op f3 rd rs1 v) = packI op f3 rd rs1 v := by
  simp [packWith, commandI, packI, toBits_of_port]

theorem packWith_commandS : packWith .S (commandS op f3 rs1 rs2 v) = packS op f3 rs1 rs2 v := by
  simp [packWith, commandS, packS, toBits_of_port]

theorem packWith_commandSB : packWith .SB (commandSB op f3 rs1 rs2 v) = packSB op f3 rs1 rs2 v := by
  simp [packWith, commandSB, packSB, toBits_of_port]

theorem packWith_commandU : packWith .U (commandU op rd v) = packU op rd v := by
  simp [packWith, commandU, packU, toBits_of_port]

theorem packWith_commandUJ : packWith .UJ (commandUJ op rd v) = packUJ op rd v := by
  simp [packWith, commandUJ, packUJ, toBits_of_port]

/-! The packers, with the immediate as the pattern of the integer. -/

theorem packI_eq_ofInt : packI op f3 rd rs1 v = BitVec.ofInt 12 v ++ rs1 ++ f3 ++ rd ++ op := by
  simp only [packI, toBits_eq_ofInt, extractLsb_whole]

theorem packS_eq_ofInt : packS op f3 rs1 rs2 v =
    (BitVec.ofInt 12 v).extractLsb 11 5 ++ rs2 ++ rs1 ++ f3 ++ (BitVec.ofInt 12 v).extractLsb 4 0 ++ op := by
  rw [packS, toBits_eq_ofInt]

theorem packSB_eq_ofInt : packSB op f3 rs1 rs2 v =
    (BitVec.ofInt 13 v).extractLsb 12 12 ++ (BitVec.ofInt 13 v).extractLsb 10 5 ++ rs2 ++ rs1 ++ f3 ++
      (BitVec.ofInt 13 v).extractLsb 4 1 ++ (BitVec.ofInt 13 v).extractLsb 11 11 ++ op := by
  rw [packSB, toBits_eq_ofInt]

theorem packU_eq_ofInt : packU op rd v = BitVec.ofInt 20 v ++ rd ++ op := by
  simp only [packU, toBits_eq_ofInt, extractLsb_whole]

theorem packUJ_eq_ofInt : packUJ op rd v =
    (BitVec.ofInt 21 v).extractLsb 20 20 ++ (BitVec.ofInt 21 v).extractLsb 10 1 ++
      (BitVec.ofInt 21 v).extractLsb 11 11 ++ (BitVec.ofInt 21 v).extractLsb 19 12 ++ rd ++ op := by
  rw [packUJ, toBits_eq_ofInt]

end

/-! ## The Catalog rows, class by class (R99) -/

/-- Settles O12: the rows give `PACK.R` their fixed fields. -/
theorem registerRowsEmitPackedWord : Obligations.RegisterRowsEmitPackedWord := by
  intro s r rd rs1 rs2 hline hwired emits
  and_intros <;> exact exec_emits rfl hline hwired (packWith_commandR ..)

/-- Settles O13: the rows give `PACK.I` their fixed fields. -/
theorem immediateRowsEmitPackedWord : Obligations.ImmediateRowsEmitPackedWord := by
  intro s r rd rs1 imm hline hwired emits
  and_intros <;> exact exec_emits rfl hline hwired ((packWith_commandI ..).trans (packI_eq_ofInt ..))

/-- Settles O14: the rows give `PACK.S` their fixed fields. -/
theorem storeRowsEmitPackedWord : Obligations.StoreRowsEmitPackedWord := by
  intro s r rs1 rs2 imm hline hwired t emits
  and_intros <;> exact exec_emits rfl hline hwired ((packWith_commandS ..).trans (packS_eq_ofInt ..))

/-- Settles O15: the rows give `PACK.SB` their fixed fields. -/
theorem branchRowsEmitPackedWord : Obligations.BranchRowsEmitPackedWord := by
  intro s r rs1 rs2 imm hline hwired t emits
  and_intros <;> exact exec_emits rfl hline hwired ((packWith_commandSB ..).trans (packSB_eq_ofInt ..))

/-- Settles O16: the rows give `PACK.U` and `PACK.UJ` their opcodes. -/
theorem upperAndJumpRowsEmitPackedWord : Obligations.UpperAndJumpRowsEmitPackedWord := by
  intro s r rd imm hline emits t
  refine ⟨fun hwired => ⟨?_, ?_⟩, fun hwired => ?_⟩
  · exact exec_emits rfl hline hwired ((packWith_commandU ..).trans (packU_eq_ofInt ..))
  · exact exec_emits rfl hline hwired ((packWith_commandU ..).trans (packU_eq_ofInt ..))
  · exact exec_emits rfl hline hwired ((packWith_commandUJ ..).trans (packUJ_eq_ofInt ..))

/-! ## The opcode table -/

/-- Outside the mask of its class a packed command shows its operands, placed as the opcode table places them. -/
theorem packWith_and_not_maskWord {f : FixedFields} {o : Operands} {c : Command} (h : commandOfFields f o = some c) :
    packWith f.format c &&& ~~~maskWord f.format = operandBits o := by
  refine BitVec.eq_of_getLsbD_eq fun k hk => ?_
  unfold commandOfFields at h
  split at h <;> cases h
  all_goals
    simp only [FixedFields.format, packWith_commandR, packWith_commandI, packWith_commandS, packWith_commandSB,
      packWith_commandU, packWith_commandUJ, packR_getLsbD, packI_getLsbD, packS_getLsbD, packSB_getLsbD,
      packU_getLsbD, packUJ_getLsbD, operandBits, ← toBits_eq_ofInt, placed_getLsbD, maskWord_getLsbD,
      BitVec.getLsbD_and, BitVec.getLsbD_or, BitVec.getLsbD_not, BitVec.getLsbD_extractLsb]
    grind

/-- A row's packed command is the row's word of the opcode table: the match number under the mask, the operand fields
outside it. -/
theorem packWith_eq_tableWord {m : Mnemonic} {o : Operands} {c : Command}
    (h : commandOfFields (mnemonicFixed m) o = some c) : packWith (mnemonicFixed m).format c = tableWord m o := by
  rw [tableWord, matchWord_eq_fixedWord, ← packWith_and_maskWord h, ← packWith_and_not_maskWord h,
    ← BitVec.and_or_distrib_left, BitVec.or_not_self, BitVec.and_allOnes]

/-- Settles O24: a row's instruction gives the core the command of the row's fixed fields. -/
theorem rowsEmitTheOpcodeTableWord : Obligations.RowsEmitTheOpcodeTableWord := by
  intro i f w s r hword hformat hwired hline
  obtain ⟨⟨m, o⟩, hrow, rfl⟩ := Option.map_eq_some_iff.1 hword
  obtain ⟨-, hclass, -, hcmd⟩ := Laws.TableRow.all i m o hrow
  obtain rfl := Option.some.inj (hformat.symm.trans hclass)
  exact exec_emits hformat hline hwired (packWith_eq_tableWord hcmd)

end Sys2Proof.Machine
end

section
/-! Proofs of the statements about the Field Encoder (41_field_encoder.md). -/

namespace Sys2Proof.Machine

/-- The encoding at a narrower width is the low wires of the encoding at a wider one. -/
theorem setWidth_toBits (v : Int) {n m : Nat} (h : n ≤ m) : (toBits v m).setWidth n = toBits v n := by
  have hdvd : (2 ^ n : Int) ∣ 2 ^ m := pow_dvd_pow 2 h
  apply BitVec.eq_of_toNat_eq
  zify
  rw [BitVec.toNat_setWidth, Int.natCast_mod, toNat_toBits, toNat_toBits]
  exact_mod_cast Int.emod_emod_of_dvd v hdvd

/-- Settles O46: the port is the encoding of its own signed reading, and its low wires are that encoding at the width. -/
theorem toBitsIsTheModulus : Obligations.ToBitsIsTheModulus := by
  refine ⟨toNat_toBits, fun v n _ hn => ?_⟩
  calc toBits v.toInt n
      _ = (toBits v.toInt 32).setWidth n := (setWidth_toBits v.toInt hn).symm
      _ = v.setWidth n := by rw [toBits_toInt_port]

/-- Settles O50: at the smaller width the encoding is the low wires of the one at the larger width. -/
theorem toBitsSlicesAgree : Obligations.ToBitsSlicesAgree := by
  intro v n m k hn hm
  wlog h : n ≤ m
  · exact (this v m n k hm hn (by omega)).symm
  · rw [← setWidth_toBits v h, BitVec.getLsbD_setWidth, decide_eq_true hn, Bool.true_and]

/-- Settles O48: the modulus absorbs every multiple of `2^n`. -/
theorem toBitsWraps : Obligations.ToBitsWraps := by
  intro v k n
  rw [toBits, Int.add_mul_emod_self_right, ← toBits]

/-! ## The signed reading -/

/-- The signed reading is the one integer of the signed range congruent to the value (R113). -/
theorem eq_signed_toBits_iff (v k : Int) {n : Nat} (h : 1 ≤ n) :
    k = signed (toBits v n) ↔ -2 ^ (n - 1) ≤ k ∧ k < 2 ^ (n - 1) ∧ (k - v) % 2 ^ n = 0 := by
  have hpow : (2 ^ n : Int) = 2 * 2 ^ (n - 1) := (mul_pow_sub_one (by omega) 2).symm
  rw [signed_toBits, eq_comm, Int.bmod_eq_iff (by positivity), Int.dvd_iff_emod_eq_zero]
  push_cast
  rw [show (2 ^ n : Int) / 2 = 2 ^ (n - 1) by omega, show (2 ^ n + 1 : Int) / 2 = 2 ^ (n - 1) by omega]

/-- A value in the signed range reads back as itself. -/
theorem signed_toBits_of_range {v : Int} {n : Nat} (h : 1 ≤ n) (hlo : -2 ^ (n - 1) ≤ v) (hhi : v < 2 ^ (n - 1)) :
    signed (toBits v n) = v :=
  ((eq_signed_toBits_iff v v h).2 ⟨hlo, hhi, by simp⟩).symm

/-- Settles O47, by the characterisation of the signed reading above. -/
theorem toBitsRoundTrip : Obligations.ToBitsRoundTrip :=
  fun v _ h => ⟨fun k => (eq_signed_toBits_iff v k h).symm, signed_toBits_of_range h⟩

/-- The leading bit is the sign of the signed reading (R11). -/
theorem getLsbD_last_eq_signed_neg {n : Nat} (b : BitVec n) : b.getLsbD (n - 1) = decide (signed b < 0) := by
  rw [← BitVec.msb_eq_getLsbD_last, BitVec.msb_eq_toInt, signed_eq_toInt]

/-- A pattern in the upper half of the unsigned range reads as negative. -/
theorem signed_neg_of_half_le {n : Nat} (b : BitVec n) (h : 1 ≤ n) (hb : 2 ^ (n - 1) ≤ b.toNat) : signed b < 0 := by
  have hpow : 2 ^ n = 2 * 2 ^ (n - 1) := (mul_pow_sub_one (by omega) 2).symm
  rw [signed_eq_toInt, BitVec.toInt_neg_iff]
  omega

/-- A value in the unsigned range is encoded as its plain numeral. -/
theorem toNat_toBits_of_range {v : Int} {n : Nat} (hlo : 0 ≤ v) (hhi : v < 2 ^ n) : ((toBits v n).toNat : Int) = v := by
  rw [toNat_toBits, Int.emod_eq_of_lt hlo hhi]

/-- Settles O49: below `2^(n-1)` the leading bit is the sign of the value itself, above it the numeral decides. -/
theorem toBitsSigns : Obligations.ToBitsSigns := by
  intro v n h
  have hpow : (2 ^ n : Int) = 2 * 2 ^ (n - 1) := (mul_pow_sub_one (by omega) 2).symm
  refine ⟨fun hpos hle => ⟨?leadingOne, ?complement⟩, fun hnonneg hlt => ⟨?numeral, ?leadingZero⟩,
    fun hge hlt => ⟨?upperNumeral, ?upperNegative⟩⟩
  case leadingOne =>
    rw [getLsbD_last_eq_signed_neg, signed_toBits_of_range h (by omega) (by omega), decide_eq_true_iff]
    omega
  case complement =>
    rw [← toBitsWraps (-v) 1 n, one_mul, neg_add_eq_sub]
  case numeral => exact toNat_toBits_of_range hnonneg (by omega)
  case leadingZero =>
    rw [getLsbD_last_eq_signed_neg, signed_toBits_of_range h (by omega) hlt, decide_eq_false_iff_not]
    omega
  case upperNumeral => exact toNat_toBits_of_range (by omega) hlt
  case upperNegative =>
    apply signed_neg_of_half_le _ h
    zify
    rwa [toNat_toBits_of_range (by omega) hlt]

end Sys2Proof.Machine
end

section
/-! Proofs of the statements about the format packers (42_format_packers.md): the commands at the port, the places of
the fields in a word, and what of a command its word depends on. -/

namespace Sys2Proof.Machine

/-! ## Commands at the port (R130 to R154, R160, R184) -/

/-- Settles O17: the port's instructions give the packers their own fields. -/
theorem portCommandsEmitPackedWord : Obligations.PortCommandsEmitPackedWord := by
  intro s r op f3 f7 rd rs1 rs2 imm hline emits b j
  refine ⟨fun hwired => ?_, fun hwired => ?_, fun hwired => ?_, fun hwired => ?_, fun hwired => ?_⟩
  · exact exec_emits rfl hline hwired (packWith_commandR ..)
  · exact exec_emits rfl hline hwired ((packWith_commandI ..).trans (packI_eq_ofInt ..))
  · exact exec_emits rfl hline hwired ((packWith_commandS ..).trans (packS_eq_ofInt ..))
  · exact exec_emits rfl hline hwired ((packWith_commandSB ..).trans (packSB_eq_ofInt ..))
  · exact exec_emits rfl hline hwired ((packWith_commandUJ ..).trans (packUJ_eq_ofInt ..))

/-- Settles O18: the same for the layout of D6. -/
theorem upperPortCommandEmitsPackedWord : Obligations.UpperPortCommandEmitsPackedWord :=
  fun _ _ _ _ _ hline hwired => exec_emits rfl hline hwired ((packWith_commandU ..).trans (packU_eq_ofInt ..))

/-! ## The places of the fields (R70, R157)

Beside `rd`, `rs1` and `rs2` (`packWith_rd` and its neighbours): the fixed fields and the sign bit, each said once for
the classes that have it. -/

theorem packWith_opcode (f : Format) (c : Command) : (packWith f c).extractLsb 6 0 = c.opcode := by
  refine extractLsb_eq_of_getLsbD fun i hi => ?_
  cases f <;> simp only [packWith, packR_getLsbD, packI_getLsbD, packS_getLsbD, packSB_getLsbD, packU_getLsbD,
    packUJ_getLsbD] <;> grind

theorem packWith_funct3 {f : Format} (hU : f ≠ .U) (hUJ : f ≠ .UJ) (c : Command) :
    (packWith f c).extractLsb 14 12 = c.funct3 := by
  refine extractLsb_eq_of_getLsbD fun i hi => ?_
  cases f <;> simp only [packWith, packR_getLsbD, packI_getLsbD, packS_getLsbD, packSB_getLsbD] <;> grind

theorem packR_funct7 (op : Opcode) (f3 : Funct3) (f7 : Funct7) (rd rs1 rs2 : Reg) :
    (packR op f3 f7 rd rs1 rs2).extractLsb 31 25 = f7 := by
  refine extractLsb_eq_of_getLsbD fun i hi => ?_
  rw [packR_getLsbD]
  grind

/-- The leading bit of the encoded immediate is the leading bit of the word. -/
theorem packWith_sign {f : Format} (hR : f ≠ .R) (c : Command) :
    (packWith f c).getLsbD 31 = (toBits c.imm.toInt (immWidth f)).getLsbD (immWidth f - 1) := by
  cases f
  case R => exact absurd rfl hR
  all_goals
    simp only [packWith, immWidth, packI_getLsbD, packS_getLsbD, packSB_getLsbD, packU_getLsbD, packUJ_getLsbD]
    grind

/-- The same for a raw immediate, whatever its size: the port keeps the bits the packer takes. -/
theorem packWith_sign_of_imm {f : Format} {c : Command} {v : Int} (hR : f ≠ .R) (himm : c.imm = toBits v 32) :
    (packWith f c).getLsbD 31 = (toBits v (immWidth f)).getLsbD (immWidth f - 1) := by
  have hwidth : immWidth f ≤ 32 := by cases f <;> decide
  rw [packWith_sign hR, himm, toBits_of_port v hwidth]

/-- Settles O51: each packer's word is its class's word of a command with the packer's fields. -/
theorem packersUseFixedPositions : Obligations.PackersUseFixedPositions := by
  intro op f3 f7 rd rs1 rs2 v
  refine ⟨?classR, ?classI, ?classS, ?classSB, ?classU, ?classUJ⟩
  case classR =>
    rw [← packWith_commandR]
    exact ⟨packWith_opcode .., packWith_rd (by decide) (by decide) _, packWith_funct3 (by decide) (by decide) _,
      packWith_rs1 (by decide) (by decide) _, packWith_rs2 (by decide) (by decide) (by decide) _, packR_funct7 ..⟩
  case classI =>
    rw [← packWith_commandI]
    exact ⟨packWith_opcode .., packWith_rd (by decide) (by decide) _, packWith_funct3 (by decide) (by decide) _,
      packWith_rs1 (by decide) (by decide) _, packWith_sign_of_imm (f := .I) nofun rfl⟩
  case classS =>
    rw [← packWith_commandS]
    exact ⟨packWith_opcode .., packWith_funct3 (by decide) (by decide) _, packWith_rs1 (by decide) (by decide) _,
      packWith_rs2 (by decide) (by decide) (by decide) _, packWith_sign_of_imm (f := .S) nofun rfl⟩
  case classSB =>
    rw [← packWith_commandSB]
    exact ⟨packWith_opcode .., packWith_funct3 (by decide) (by decide) _, packWith_rs1 (by decide) (by decide) _,
      packWith_rs2 (by decide) (by decide) (by decide) _, packWith_sign_of_imm (f := .SB) nofun rfl⟩
  case classU =>
    rw [← packWith_commandU]
    exact ⟨packWith_opcode .., packWith_rd (by decide) (by decide) _, packWith_sign_of_imm (f := .U) nofun rfl⟩
  case classUJ =>
    rw [← packWith_commandUJ]
    exact ⟨packWith_opcode .., packWith_rd (by decide) (by decide) _, packWith_sign_of_imm (f := .UJ) nofun rfl⟩

/-- Settles O53: the six fields leave no bit of the word out. -/
theorem packRReachesEveryWord : Obligations.PackRReachesEveryWord := by
  intro w
  refine BitVec.eq_of_getLsbD_eq fun k hk => ?_
  simp only [packR_getLsbD, BitVec.getLsbD_extractLsb]
  grind

/-! ## The bits a packer uses (R158) -/

/-- Two concatenations of the same widths are equal exactly when their parts are. -/
theorem append_eq_append_iff {n m : Nat} {a a' : BitVec n} {b b' : BitVec m} :
    a ++ b = a' ++ b' ↔ a = a' ∧ b = b' := by
  refine ⟨fun h => ⟨?_, ?_⟩, fun ⟨ha, hb⟩ => by rw [ha, hb]⟩
  · rw [← BitVec.extractLsb'_append_eq_left (a := a) (b := b), h, BitVec.extractLsb'_append_eq_left]
  · rw [← BitVec.extractLsb'_append_eq_right (a := a) (b := b), h, BitVec.extractLsb'_append_eq_right]

/-- Two slices are equal exactly when they agree bit by bit. -/
theorem extractLsb_eq_extractLsb_iff {n hi lo : Nat} {x y : BitVec n} (h : lo ≤ hi) :
    x.extractLsb hi lo = y.extractLsb hi lo ↔ ∀ k, lo ≤ k → k ≤ hi → x.getLsbD k = y.getLsbD k := by
  constructor
  · intro heq k hlo hhi
    have hbit := congrArg (BitVec.getLsbD · (k - lo)) heq
    simpa [BitVec.getLsbD_extractLsb, hlo, hhi, Nat.sub_add_cancel h] using hbit
  · intro hbits
    refine extractLsb_eq_of_getLsbD fun i hi => ?_
    rw [hbits (lo + i) (by omega) (by omega), BitVec.getLsbD_extractLsb, decide_eq_true hi, Bool.true_and]

/-- Two slices are equal exactly when both parts of a cut are. -/
theorem extractLsb_eq_iff_cut {n hi lo : Nat} {x y : BitVec n} (mid : Nat) (hlo : lo ≤ mid) (hhi : mid < hi) :
    x.extractLsb hi lo = y.extractLsb hi lo ↔
      x.extractLsb hi (mid + 1) = y.extractLsb hi (mid + 1) ∧ x.extractLsb mid lo = y.extractLsb mid lo := by
  rw [extractLsb_eq_extractLsb_iff (hlo.trans hhi.le), extractLsb_eq_extractLsb_iff hhi,
    extractLsb_eq_extractLsb_iff hlo]
  constructor
  · exact fun h => ⟨fun k hk => h k (by omega), fun k hk hk' => h k hk (by omega)⟩
  · exact fun ⟨hhigh, hlow⟩ k hk hk' => (le_or_gt k mid).elim (hlow k hk) (hhigh k · hk')

/-- A slice of an encoded port immediate is a slice of the port. -/
theorem toBits_port_slice (v : ImmPort) {n hi lo : Nat} (hlo : lo ≤ hi) (hhi : hi < n) (hn : n ≤ 32) :
    (toBits v.toInt n).extractLsb hi lo = v.extractLsb hi lo := by
  obtain ⟨-, hwires⟩ := toBitsIsTheModulus
  refine extractLsb_eq_of_getLsbD fun i hi => ?_
  have hin : lo + i < n := by omega
  rw [hwires v n (by omega) hn, BitVec.getLsbD_setWidth, BitVec.getLsbD_extractLsb, decide_eq_true hin,
    decide_eq_true hi]

/-! The word is a concatenation, so two words are equal exactly when their parts are; where a format scatters its
immediate, the bits it uses are cut at the ends of the parts. -/

section
variable (op op' : Opcode) (f3 f3' : Funct3) (f7 f7' : Funct7) (rd rd' rs1 rs1' rs2 rs2' : Reg) (v v' : ImmPort)

theorem packR_eq_iff : packR op f3 f7 rd rs1 rs2 = packR op' f3' f7' rd' rs1' rs2' ↔
    op = op' ∧ f3 = f3' ∧ f7 = f7' ∧ rd = rd' ∧ rs1 = rs1' ∧ rs2 = rs2' := by
  refine append_eq_append_iff.trans ?_
  simp only [append_eq_append_iff]
  tauto

theorem packI_eq_iff : packI op f3 rd rs1 v.toInt = packI op' f3' rd' rs1' v'.toInt ↔
    op = op' ∧ f3 = f3' ∧ rd = rd' ∧ rs1 = rs1' ∧ v.extractLsb 11 0 = v'.extractLsb 11 0 := by
  refine append_eq_append_iff.trans ?_
  simp (disch := decide) only [append_eq_append_iff, toBits_port_slice]
  tauto

theorem packS_eq_iff : packS op f3 rs1 rs2 v.toInt = packS op' f3' rs1' rs2' v'.toInt ↔
    op = op' ∧ f3 = f3' ∧ rs1 = rs1' ∧ rs2 = rs2' ∧ v.extractLsb 11 0 = v'.extractLsb 11 0 := by
  rw [extractLsb_eq_iff_cut 4 (by decide) (by decide)]
  refine append_eq_append_iff.trans ?_
  simp (disch := decide) only [append_eq_append_iff, toBits_port_slice]
  tauto

theorem packSB_eq_iff : packSB op f3 rs1 rs2 v.toInt = packSB op' f3' rs1' rs2' v'.toInt ↔
    op = op' ∧ f3 = f3' ∧ rs1 = rs1' ∧ rs2 = rs2' ∧ v.extractLsb 12 1 = v'.extractLsb 12 1 := by
  rw [extractLsb_eq_iff_cut 11 (by decide) (by decide), extractLsb_eq_iff_cut (hi := 11) 10 (by decide) (by decide),
    extractLsb_eq_iff_cut (hi := 10) 4 (by decide) (by decide)]
  refine append_eq_append_iff.trans ?_
  simp (disch := decide) only [append_eq_append_iff, toBits_port_slice]
  tauto

theorem packU_eq_iff : packU op rd v.toInt = packU op' rd' v'.toInt ↔
    op = op' ∧ rd = rd' ∧ v.extractLsb 19 0 = v'.extractLsb 19 0 := by
  refine append_eq_append_iff.trans ?_
  simp (disch := decide) only [append_eq_append_iff, toBits_port_slice]
  tauto

theorem packUJ_eq_iff : packUJ op rd v.toInt = packUJ op' rd' v'.toInt ↔
    op = op' ∧ rd = rd' ∧ v.extractLsb 20 1 = v'.extractLsb 20 1 := by
  rw [extractLsb_eq_iff_cut 19 (by decide) (by decide), extractLsb_eq_iff_cut (hi := 19) 11 (by decide) (by decide),
    extractLsb_eq_iff_cut (hi := 11) 10 (by decide) (by decide)]
  refine append_eq_append_iff.trans ?_
  simp (disch := decide) only [append_eq_append_iff, toBits_port_slice]
  tauto

end

/-- Settles O52, packer by packer. -/
theorem packersUseExactlyTheirBits : Obligations.PackersUseExactlyTheirBits := by
  intro op op' f3 f3' f7 f7' rd rd' rs1 rs1' rs2 rs2' v v'
  exact ⟨packR_eq_iff .., packI_eq_iff .., packS_eq_iff .., packSB_eq_iff .., packU_eq_iff .., packUJ_eq_iff ..⟩

end Sys2Proof.Machine
end

section
/-! Proofs of the statements about the format multiplexer (43_format_mux.md): ENCODE case by case, the commands at the
port, and what an instruction leaves behind on its line. -/

namespace Sys2Proof.Machine

/-! ## The class of a code (R63) -/

theorem fmtClass_eq_some {code : BitVec 3} {f : Format} : fmtClass code = some f ↔ fmtCode f = code := by
  revert code
  cases f <;> decide

theorem fmtClass_eq_none {code : BitVec 3} : fmtClass code = none ↔ 6 ≤ code.toNat := by
  revert code
  decide

/-! ## ENCODE, case by case (R160)

Beside `encodeMux_of_wired`. -/

section Encode
variable {wired : List Format} {c : Command} {f : Format} {e : Status}

/-- The status an upstream code of `pre` stands for; 0 is none (R164, D3). -/
def upstreamStatus (pre : BitVec 2) : Option Status :=
  if pre = 1 then some .unclassified else if pre = 2 then some .badRegister else if pre = 3 then some .badFormat else none

theorem upstreamStatus_eq_none {pre : BitVec 2} : upstreamStatus pre = none ↔ pre = 0 := by
  revert pre
  decide

theorem pre_cases (pre : BitVec 2) : pre = 0 ∨ pre = 1 ∨ pre = 2 ∨ pre = 3 := by
  revert pre
  decide

theorem encodeMux_of_upstream (h : upstreamStatus c.pre = some e) : encodeMux wired c = .raised e := by
  unfold encodeMux
  obtain hpre | hpre | hpre | hpre := pre_cases c.pre <;> rw [hpre] at h ⊢ <;> cases h <;> rfl

theorem encodeMux_of_reserved (hpre : c.pre = 0) (hfmt : fmtClass c.fmt = none) :
    encodeMux wired c = .raised .badFormat := by
  simp [encodeMux, hpre, hfmt]

theorem encodeMux_of_unwired (hpre : c.pre = 0) (hfmt : fmtClass c.fmt = some f) (hwired : f ∉ wired) :
    encodeMux wired c = .raised .notWired := by
  simp [encodeMux, hpre, hfmt, hwired]

/-- Of two commands of one class, with the same `pre`, ENCODE sees only what the class's packer makes of them (R170). -/
theorem encodeMux_congr {c' : Command} (hfmt : fmtClass c.fmt = some f) (hpre' : c'.pre = c.pre) (hfmt' : c'.fmt = c.fmt)
    (hword : packWith f c' = packWith f c) : encodeMux wired c' = encodeMux wired c := by
  simp [encodeMux, hpre', hfmt', hfmt, hword]

end Encode

/-- Settles O56: `pre` first, then the class of the code, then whether it is wired. -/
theorem encodeAnswersByPriority : Obligations.EncodeAnswersByPriority := by
  intro wired c
  obtain hpre | hpre | hpre | hpre := pre_cases c.pre
  · simp only [← fmtClass_eq_some, ← fmtClass_eq_none]
    cases hfmt : fmtClass c.fmt with
    | none => simp [encodeMux_of_reserved hpre hfmt, hpre]
    | some f =>
      by_cases hwired : f ∈ wired
      · simp [encodeMux_of_wired hpre hfmt hwired, hpre, hwired, eq_comm]
      · simp [encodeMux_of_unwired hpre hfmt hwired, hpre, hwired]
  · have hup : upstreamStatus c.pre = some .unclassified := by rw [hpre]; rfl
    simp [encodeMux_of_upstream hup, hpre]
  · have hup : upstreamStatus c.pre = some .badRegister := by rw [hpre]; rfl
    simp [encodeMux_of_upstream hup, hpre]
  · have hup : upstreamStatus c.pre = some .badFormat := by rw [hpre]; rfl
    simp [encodeMux_of_upstream hup, hpre]

/-- Settles O57: a `pre` that is not 0 is the answer. -/
theorem upstreamStatusWins : Obligations.UpstreamStatusWins := by
  intro wired c c' hpre hne
  obtain ⟨e, he⟩ := Option.ne_none_iff_exists'.1 (mt upstreamStatus_eq_none.1 hne)
  rw [encodeMux_of_upstream he, encodeMux_of_upstream (hpre ▸ he)]

/-- Settles O58: no packer takes a field its format does not use. -/
theorem unusedFieldsDoNotMatter : Obligations.UnusedFieldsDoNotMatter := by
  intro wired c f3 f7 rd rs1 rs2 v _
  refine ⟨fun h => ?_, fun h => ?_, fun h => ?_, fun h => ?_, fun h => ?_, fun h => ?_⟩
  · exact encodeMux_congr (f := .R) (fmtClass_eq_some.2 h.symm) rfl rfl rfl
  · exact encodeMux_congr (f := .I) (fmtClass_eq_some.2 h.symm) rfl rfl rfl
  · exact encodeMux_congr (f := .S) (fmtClass_eq_some.2 h.symm) rfl rfl rfl
  · exact encodeMux_congr (f := .SB) (fmtClass_eq_some.2 h.symm) rfl rfl rfl
  · exact encodeMux_congr (f := .U) (fmtClass_eq_some.2 h.symm) rfl rfl rfl
  · exact encodeMux_congr (f := .UJ) (fmtClass_eq_some.2 h.symm) rfl rfl rfl

/-! ## A command at the port (R62, R160, R184) -/

section Port
variable {c : Command} {f : Format}

theorem decodeCommand_of_upstream {e : Status} (h : upstreamStatus c.pre = some e) : decodeCommand c = .fails e := by
  unfold decodeCommand
  obtain hpre | hpre | hpre | hpre := pre_cases c.pre <;> rw [hpre] at h ⊢ <;> cases h <;> rfl

/-- A reserved code decodes to an instruction without a class. -/
theorem decodeCommand_of_reserved (hpre : c.pre = 0) (hfmt : fmtClass c.fmt = none) :
    ∃ i, decodeCommand c = .instr i ∧ i.format? = none := by
  have hdecode : decodeCommand c = if c.fmt = 6 then .instr .reservedFmt6 else .instr .reservedFmt7 := by
    simp [decodeCommand, hpre, hfmt]
  rw [hdecode]
  split
  · exact ⟨.reservedFmt6, rfl, rfl⟩
  · exact ⟨.reservedFmt7, rfl, rfl⟩

/-- The code of a class decodes to an instruction of the class, whose word is the command's. -/
theorem decodeCommand_of_class (hpre : c.pre = 0) (hfmt : fmtClass c.fmt = some f) :
    ∃ i, decodeCommand c = .instr i ∧ i.format? = some f ∧ packWith f (commandOf i) = packWith f c := by
  simp only [decodeCommand, hpre, hfmt]
  cases f
  · exact ⟨_, rfl, rfl, packWith_commandR ..⟩
  · exact ⟨_, rfl, rfl, packWith_commandI ..⟩
  · exact ⟨_, rfl, rfl, packWith_commandS ..⟩
  · exact ⟨_, rfl, rfl, packWith_commandSB ..⟩
  · exact ⟨_, rfl, rfl, packWith_commandU ..⟩
  · exact ⟨_, rfl, rfl, packWith_commandUJ ..⟩

/-- An instruction without a class is a reserved code (R166). -/
theorem encodeMux_commandOf_of_no_class {i : Instr} (wired : List Format) (h : i.format? = none) :
    encodeMux wired (commandOf i) = .raised .badFormat := by
  cases i <;> cases h <;> exact encodeMux_of_reserved rfl rfl

/-- The result of a command at the port is ENCODE's answer: decoding it first changes nothing. -/
theorem lineResult_port (p : Params) (b : PortBits) (l : Text) :
    lineResult p (.port b l) = .ok (encodeMux p.wired (unpackCommand b)) := by
  simp only [lineResult, decodeItem]
  generalize unpackCommand b = c
  cases hup : upstreamStatus c.pre with
  | some e => rw [decodeCommand_of_upstream hup, encodeMux_of_upstream hup]
  | none =>
    have hpre := upstreamStatus_eq_none.1 hup
    cases hfmt : fmtClass c.fmt with
    | none =>
      obtain ⟨i, hi, hclass⟩ := decodeCommand_of_reserved hpre hfmt
      rw [hi, encodeMux_of_reserved hpre hfmt]
      exact congrArg Except.ok (encodeMux_commandOf_of_no_class p.wired hclass)
    | some f =>
      obtain ⟨i, hi, hclass, hword⟩ := decodeCommand_of_class hpre hfmt
      obtain ⟨hpre', hfmt'⟩ := commandOf_class hclass
      have hcode : (commandOf i).fmt = c.fmt := (fmtClass_eq_some.1 hfmt').symm.trans (fmtClass_eq_some.1 hfmt)
      rw [hi]
      exact congrArg Except.ok (encodeMux_congr hfmt (hpre'.trans hpre.symm) hcode hword)

end Port

/-- Settles O25, by the result of the command's line. -/
theorem stepOnPortCommandIsEncode : Obligations.StepOnPortCommandIsEncode := by
  intro s a b l hio hphase hline
  rw [step_of_result hio hphase hline (lineResult_port s.cfg b l)]
  cases encodeMux s.cfg.wired (unpackCommand b) <;> rfl

/-! ## An instruction whose command ENCODE does not answer with a word (R166, R168) -/

/-- The status goes to DIAG for the line under the cursor, and nothing else changes. -/
theorem exec_raises {i : Instr} {s : State} {r : Retained} {e : Status} (hline : s.current = some r)
    (hraised : encodeMux s.cfg.wired (commandOf i) = .raised e) :
    exec i s = .next { s with diag := s.diag ++ [⟨e, r.addr, r.item.line⟩], cursor := s.cursor + 1 } := by
  rw [exec_of_current i hline, hraised]
  rfl

/-- Settles O19: neither code has a class. -/
theorem reservedCodesRaiseBadFormat : Obligations.ReservedCodesRaiseBadFormat := by
  intro s r hline
  exact ⟨exec_raises hline (encodeMux_commandOf_of_no_class _ rfl),
    exec_raises hline (encodeMux_commandOf_of_no_class _ rfl)⟩

/-- A source line of an unwired class is not read past its mnemonic (R218 item 2). -/
theorem lineResult_of_unwired {p : Params} {l m : Text} {args : List Text} {f : FixedFields} (htok : tokens l = m :: args)
    (hcat : classify p.catalog m = some f) (hwired : f.format ∉ p.wired) :
    lineResult p (.text l) = .ok (.raised .notWired) := by
  simp [lineResult, decodeItem, decodeLine, htok, hcat, hwired]

/-- Settles O20: ENCODE raises NotWired for the instruction, the decoder for the source line. -/
theorem unwiredClassRaisesNotWired : Obligations.UnwiredClassRaisesNotWired := by
  constructor
  · intro s r i f hline hformat hwired
    obtain ⟨hpre, hfmt⟩ := commandOf_class hformat
    exact exec_raises hline (encodeMux_of_unwired hpre hfmt hwired)
  · intro s a l m args f hio hphase hline htok hcat hwired
    exact step_of_result hio hphase hline (lineResult_of_unwired htok hcat hwired)

/-! ## ADDR and LABELS are not read (R172, R186) -/

theorem finishLine_with_addr_labels (r : Retained) (res : Result) (s : State) (a : Nat) (ls : List (Text × Nat)) :
    finishLine r res { s with addr := a, labels := ls } = { finishLine r res s with addr := a, labels := ls } := by
  cases res <;> rfl

/-- Without a line under the cursor every instruction faults (log 14). -/
theorem exec_of_no_line {s : State} (i : Instr) (h : s.current = none) : exec i s = .fault .noLineToEncode := by
  simp [exec_eq_runCommand, runCommand, finish, h]

/-- Settles O33: an instruction reads the line under the cursor and WIRED, and writes the line's result. -/
theorem instructionsReadNoCounterOrLabels : Obligations.InstructionsReadNoCounterOrLabels := by
  intro i s a ls
  cases hline : s.current with
  | none =>
    rw [exec_of_no_line i hline, exec_of_no_line (s := { s with addr := a, labels := ls }) i hline]
  | some r =>
    rw [exec_of_current i hline, exec_of_current (s := { s with addr := a, labels := ls }) i hline]
    exact finishLine_with_addr_labels ..

end Sys2Proof.Machine
end

section
/-! Proofs of the statements about the lines of the Line Driver (44_line_driver.md): what a step does on each kind of line,
and that RECORDS and DIAG follow the lines. -/

namespace Sys2Proof.Machine

/-! ## A step, line by line (R180 to R184)

The converse of `step_cases`: what a step is, for each kind of line and each end of a pass. -/

section Step
variable {s : State} (hio : s.ioAvailable = true)
include hio

theorem step_of_pass1 (hp : s.phase = .pass1) : step s = stepPass1 s := by
  simp [step_eq, hio, hp]

theorem step_of_pass2 (hp : s.phase = .pass2) : step s = stepPass2 s := by
  simp [step_eq, hio, hp]

theorem step_of_done (hp : s.phase = .done) : step s = .next s := by
  simp [step_eq, hio, hp]

theorem step_of_no_input (hp : s.phase = .pass1) (hi : s.input = []) : step s = .next (endPass1 s) := by
  simp [step_of_pass1 hio hp, stepPass1, hi]

theorem step_of_item {it : Item} {rest : List Item} (hp : s.phase = .pass1) (hi : s.input = it :: rest) :
    step s = readLine it { s with input := rest } := by
  simp [step_of_pass1 hio hp, stepPass1, hi]

theorem step_of_line {r : Retained} (hp : s.phase = .pass2) (hc : s.current = some r) :
    step s = encodeLine r.item s := by
  simp [step_of_pass2 hio hp, stepPass2, hc]

theorem step_of_no_line (hp : s.phase = .pass2) (hc : s.current = none) : step s = .next (endRun s) := by
  simp [step_of_pass2 hio hp, stepPass2, hc]

end Step

theorem readLine_of_label {it : Item} {name : Text} (s : State) (hl : itemLabel it = some name) :
    readLine it s = .next (bindLabel name s) := by
  simp [readLine, hl]

theorem readLine_of_fits {it : Item} {s : State} (hl : itemLabel it = none)
    (hf : addrFits s.cfg.addrW s.addr = true) : readLine it s = .next (assignAddress it s) := by
  simp [readLine, hl, hf]

theorem readLine_of_overflow {it : Item} {s : State} (hl : itemLabel it = none)
    (hf : addrFits s.cfg.addrW s.addr = false) : readLine it s = .refused .addressOverflow := by
  simp [readLine, hl, hf]

/-- An address is left for a line unless the counter is finite and would pass its end (R22, U9). -/
theorem addrFits_iff {addrW : Option Nat} {a : Nat} :
    addrFits addrW a = true ↔ ∀ w, addrW = some w → a + 4 ≤ 2 ^ w := by
  cases addrW with
  | none => simp [addrFits]
  | some w =>
    constructor
    · rintro h _ ⟨⟩
      exact addrFits_le h
    · exact fun h => decide_eq_true (h w rfl)

/-- Settles O5: pass 2 decodes the line under the cursor. -/
theorem stepRunsDecodedInstruction : Obligations.StepRunsDecodedInstruction := by
  intro s r i hio hp hc hd
  rw [step_of_line hio hp hc, encodeLine, hd]

/-- Settles O6: the status is the line's result, the reject its refusal. -/
theorem stepOnLineWithoutInstruction : Obligations.StepOnLineWithoutInstruction := by
  intro s r hio hp hc
  constructor
  · intro e hd
    exact step_of_result hio hp hc (by rw [lineResult, hd])
  · intro why hd
    rw [step_of_line hio hp hc, encodeLine, hd]

/-- Settles O7, by what `addrFits` says of a finite counter. -/
theorem passOneAssignsAddress : Obligations.PassOneAssignsAddress := by
  intro s it rest hio hp hi hl
  rw [step_of_item hio hp hi]
  constructor
  · exact fun hfits => readLine_of_fits hl (addrFits_iff.2 hfits)
  · intro w hw hover
    refine readLine_of_overflow hl (Bool.eq_false_iff.2 fun hfits => ?_)
    exact hover.not_ge (addrFits_iff.1 hfits w hw)

/-- Settles O8, by `bindLabel` on the rest of the input. -/
theorem passOneBindsLabel : Obligations.PassOneBindsLabel := by
  intro s it rest name hio hp hi hl
  exact (step_of_item hio hp hi).trans (readLine_of_label _ hl)

/-- Settles O10, one case for each phase. -/
theorem passesEndInOrder : Obligations.PassesEndInOrder :=
  fun _ hio => ⟨step_of_no_input hio, fun hp hall => step_of_no_line hio hp (List.getElem?_eq_none hall),
    step_of_done hio⟩

/-! ## Label definitions (R76, R181) -/

theorem labelOf_eq_some {l name : Text} :
    labelOf l = some name ↔ tokens l = [name ++ [':']] ∧ isIdentifier name = true := by
  unfold labelOf
  split
  next t ht => simp [labelToken_eq_some, ht]
  next hmany =>
    constructor
    · nofun
    · rintro ⟨hone, -⟩
      exact absurd hone (hmany _)

/-- Settles O9: the label of a line is the name on its single token. -/
theorem labelDefinitionLines : Obligations.LabelDefinitionLines :=
  fun _ _ _ => ⟨labelOf_eq_some, rfl⟩

/-! ## Classified lines (R77, R94, R98) -/

/-- Operands of the class of a row of the opcode table make an instruction of the row. -/
theorem exists_instrOfRow {m : Mnemonic} {o : Operands} {c : Command}
    (h : commandOfFields (mnemonicFixed m) o = some c) : ∃ i, instrOfRow m o = some i := by
  unfold commandOfFields at h
  split at h
  case h_7 => cases h
  all_goals
    rename_i hf
    cases m <;> cases hf <;> exact ⟨_, rfl⟩

theorem exists_packOfFields {f : FixedFields} {o : Operands} {c : Command} (h : commandOfFields f o = some c) :
    ∃ i, packOfFields f o = some i ∧ i.format? = some f.format ∧ commandOf i = c := by
  unfold commandOfFields at h
  split at h <;> cases h
  all_goals exact ⟨_, rfl, rfl, rfl⟩

/-- Whether an entry is a row of the opcode table or not, its instruction gives the core the command of its fixed fields
(log 1). -/
theorem exists_instrOfEntry (m : Text) {f : FixedFields} {o : Operands} {c : Command}
    (h : commandOfFields f o = some c) :
    ∃ i, instrOfEntry m f o = some i ∧ i.format? = some f.format ∧ commandOf i = c := by
  unfold instrOfEntry
  split
  next row _ =>
    split
    next hrow =>
      subst hrow
      obtain ⟨i, hi⟩ := exists_instrOfRow h
      obtain ⟨-, hformat, -, hcmd⟩ := Laws.TableRow.all i row o (rowOf_of_instrOfRow hi)
      exact ⟨i, hi, hformat, Option.some.inj (hcmd.symm.trans h)⟩
    next => exact exists_packOfFields h
  next => exact exists_packOfFields h

/-- A line of a wired class whose operands read has the packer's word on the entry's fixed fields as its result. -/
theorem lineResult_of_classified {p : Params} {l m : Text} {args : List Text} {f : FixedFields} {o : Operands}
    {c : Command} (htok : tokens l = m :: args) (hcat : classify p.catalog m = some f) (hwired : f.format ∈ p.wired)
    (hread : readOperands f.format (args.map stripSeparator) = .operands o) (hcmd : commandOfFields f o = some c) :
    lineResult p (.text l) = .ok (.word (packWith f.format c)) := by
  obtain ⟨i, hi, hformat, rfl⟩ := exists_instrOfEntry m hcmd
  obtain ⟨hpre, hfmt⟩ := commandOf_class hformat
  have hdecode : decodeItem p (.text l) = .instr i := by
    simp [decodeItem, decodeLine, htok, hcat, hwired, hread, hi]
  rw [lineResult, hdecode, ← encodeMux_of_wired hpre hfmt hwired]

/-- A step on such a line emits that word at the line's address. -/
theorem step_of_classified {s : State} {a : Nat} {l m : Text} {args : List Text} {f : FixedFields} {o : Operands}
    {c : Command} {w : Word} (hio : s.ioAvailable = true) (hp : s.phase = .pass2)
    (hline : s.current = some ⟨a, .text l⟩) (htok : tokens l = m :: args) (hcat : classify s.cfg.catalog m = some f)
    (hwired : f.format ∈ s.cfg.wired) (hread : readOperands f.format (args.map stripSeparator) = .operands o)
    (hcmd : commandOfFields f o = some c) (hword : packWith f.format c = w) :
    step s = .next { s with records := s.records ++ [⟨a, w, l⟩], cursor := s.cursor + 1 } := by
  subst hword
  exact step_of_result hio hp hline (lineResult_of_classified htok hcat hwired hread hcmd)

section Read
variable {x y z : Text} {rx ry rz : Reg} {v : Int} (hx : resolve x = some rx) (hy : resolve y = some ry)
include hx

/-! Operands in the order of their class, resolved (R77). -/

theorem readRegImm_of_read (hz : readInt z = some v) (make : Reg → Int → Operands) :
    readRegImm make x z = .operands (make rx v) := by
  simp [readRegImm, hz, hx]

include hy

theorem readRegRegImm_of_read (hz : readInt z = some v) (make : Reg → Reg → Int → Operands) :
    readRegRegImm make x y z = .operands (make rx ry v) := by
  simp [readRegRegImm, hz, hx, hy]

theorem readOperands_R_of_resolve (hz : resolve z = some rz) :
    readOperands .R [x, y, z] = .operands (.r rx ry rz) := by
  simp [readOperands, hx, hy, hz]

end Read

/-- Settles O28: each class reads its operands in its own order and packs them with its own packer. -/
theorem classifiedLineEmitsItsWord : Obligations.ClassifiedLineEmitsItsWord := by
  intro s a l m x y z rx ry rz v hio hp hline emits name number
  refine ⟨?_, ?_, ?_, ?_, ?_, ?_⟩
  · intro op f3 f7 htok hcat hwired hx hy hz
    exact step_of_classified hio hp hline htok hcat hwired (readOperands_R_of_resolve hx hy hz) rfl
      (packWith_commandR ..)
  · intro op f3 htok hcat hwired hx hy hz
    exact step_of_classified hio hp hline htok hcat hwired (readRegRegImm_of_read hx hy hz _) rfl (packWith_commandI ..)
  · intro op f3 htok hcat hwired hx hy hz
    exact step_of_classified hio hp hline htok hcat hwired (readRegRegImm_of_read hx hy hz _) rfl (packWith_commandS ..)
  · intro op f3 htok hcat hwired hx hy hz
    exact step_of_classified hio hp hline htok hcat hwired (readRegRegImm_of_read hx hy hz _) rfl (packWith_commandSB ..)
  · intro op htok hcat hwired hx hz
    exact step_of_classified hio hp hline htok hcat hwired (readRegImm_of_read hx hz _) rfl (packWith_commandU ..)
  · intro op htok hcat hwired hx hz
    exact step_of_classified hio hp hline htok hcat hwired (readRegImm_of_read hx hz _) rfl (packWith_commandUJ ..)

/-! ## RECORDS and DIAG follow the lines (R15, R172, R198) -/

section OutputsFollowLines
variable {s : State} {r : Retained} {res : Result}

/-- Pass 1 retains lines behind those already handled. -/
theorem State.OutputsFollowLines.assignAddress (h : s.OutputsFollowLines) (it : Item) (rest : List Item) :
    (assignAddress it { s with input := rest }).OutputsFollowLines where
  cursor_le := h.cursor_le.trans (by simp)
  records_eq := by simp [h.records_eq, List.take_append_of_le_length h.cursor_le]
  diag_eq := by simp [h.diag_eq, List.take_append_of_le_length h.cursor_le]

/-- Handling the line under the cursor puts it behind the lines handled before. -/
theorem take_succ_of_current (hc : s.current = some r) :
    s.retained.take (s.cursor + 1) = s.retained.take s.cursor ++ [r] := by
  have hget : s.retained[s.cursor]? = some r := hc
  simp [List.take_add_one, hget]

theorem State.OutputsFollowLines.finishLine (h : s.OutputsFollowLines) (hc : s.current = some r)
    (hres : lineResult s.cfg r.item = .ok res) : (finishLine r res s).OutputsFollowLines := by
  have hlt : s.cursor < s.retained.length := (List.getElem?_eq_some_iff.1 hc).1
  cases res with
  | word w =>
    exact ⟨hlt, by simp [take_succ_of_current hc, h.records_eq, recordOf_of_word hres],
      by simp [take_succ_of_current hc, h.diag_eq, diagOf_of_word hres]⟩
  | raised e =>
    exact ⟨hlt, by simp [take_succ_of_current hc, h.records_eq, recordOf_of_raised hres],
      by simp [take_succ_of_current hc, h.diag_eq, diagOf_of_raised hres]⟩

end OutputsFollowLines

/-- Settles O4, case by case of what a step can do: a line's result is written when the cursor passes it, and nothing else
touches the lines handled. -/
theorem stepKeepsOutputsFollowLines : Obligations.StepKeepsOutputsFollowLines := by
  intro s t h hstep
  obtain ⟨-, ⟨-, -, rfl⟩ | ⟨it, rest, name, -, -, -, rfl⟩ | ⟨it, rest, -, -, -, -, rfl⟩ |
    ⟨r, res, -, hc, hres, rfl⟩ | ⟨-, -, rfl⟩ | ⟨-, rfl⟩⟩ := step_cases hstep
  · exact { h with }
  · exact { h with }
  · exact h.assignAddress it rest
  · exact h.finishLine hc hres
  · exact { h with }
  · exact h

end Sys2Proof.Machine
end

section
/-! Proofs of the statements about whole runs of the Line Driver (44_line_driver.md): how many steps a run makes, its
one-pass form, and the addresses it leaves. -/

namespace Sys2Proof.Machine

/-! ## The steps ahead of a run (R180, R243) -/

/-- No line ahead of the run stops it: pass 1 has an address for each instruction line it has still to read (U9), and each
line pass 2 has still to handle is inside the input contract (U6, U7). -/
def State.Unobstructed (s : State) : Prop :=
  (∀ r ∈ assignedFrom s.addr s.input, addrFits s.cfg.addrW r.addr = true) ∧
    ∀ r ∈ s.pending, ∃ res, lineResult s.cfg r.item = .ok res

/-- How many steps an unobstructed run has still to make: one for each line ahead of each pass, and one for the end of the
pass. -/
def State.stepsAhead (s : State) : Nat :=
  match s.phase with
  | .pass1 => s.input.length + s.pending.length + 2
  | .pass2 => s.pending.length + 1
  | .done => 0

section Ahead
variable {s : State} {it : Item} {rest : List Item} {name : Text}

theorem stepsAhead_pass1 (hp : s.phase = .pass1) : s.stepsAhead = s.input.length + s.pending.length + 2 := by
  simp [State.stepsAhead, hp]

theorem stepsAhead_pass2 (hp : s.phase = .pass2) : s.stepsAhead = s.pending.length + 1 := by
  simp [State.stepsAhead, hp]

theorem stepsAhead_eq_zero : s.stepsAhead = 0 ↔ s.phase = .done := by
  unfold State.stepsAhead
  split <;> simp [*]

theorem pending_bindLabel (hi : s.input = it :: rest) (hl : itemLabel it = some name) :
    (bindLabel name { s with input := rest }).pending = s.pending := by
  simp [State.pending, hi, assignedFrom_cons_label _ _ hl]

theorem pending_assignAddress (hi : s.input = it :: rest) (hl : itemLabel it = none) :
    (assignAddress it { s with input := rest }).pending = s.pending := by
  simp [State.pending, hi, assignedFrom_cons_instr _ _ hl]

theorem unobstructed_bindLabel (hi : s.input = it :: rest) (hl : itemLabel it = some name) :
    (bindLabel name { s with input := rest }).Unobstructed ↔ s.Unobstructed := by
  simp [State.Unobstructed, pending_bindLabel hi hl, hi, assignedFrom_cons_label _ _ hl]

/-- After pass 1 no line is pending but the retained ones, so the run is at its last one where none is under the cursor. -/
theorem State.Inv.pending_of_no_line (h : s.Inv) (hp : s.phase ≠ .pass1) (hc : s.current = none) : s.pending = [] := by
  have hall : s.retained.length ≤ s.cursor := List.getElem?_eq_none_iff.1 hc
  simp [State.pending, h.input_read hp, hall]

end Ahead

/-- Every step leaves the run as free of obstructions as it was. -/
theorem step_unobstructed {s t : State} (hstep : step s = .next t) : t.Unobstructed ↔ s.Unobstructed := by
  obtain ⟨-, ⟨-, -, rfl⟩ | ⟨it, rest, name, -, hi, hl, rfl⟩ | ⟨it, rest, -, hi, hl, hf, rfl⟩ |
    ⟨r, res, -, hc, hres, rfl⟩ | ⟨-, -, rfl⟩ | ⟨-, rfl⟩⟩ := step_cases hstep
  · rfl
  · exact unobstructed_bindLabel hi hl
  · simp [State.Unobstructed, pending_assignAddress hi hl, hi, assignedFrom_cons_instr _ _ hl, hf]
  · simp [State.Unobstructed, pending_eq_cons hc res, hres]
  · rfl
  · rfl

theorem step_keeps_ioAvailable {s t : State} (hstep : step s = .next t) : t.ioAvailable = true := by
  obtain ⟨hio, ⟨-, -, rfl⟩ | ⟨it, rest, name, -, -, -, rfl⟩ | ⟨it, rest, -, -, -, -, rfl⟩ |
    ⟨r, res, -, -, -, rfl⟩ | ⟨-, -, rfl⟩ | ⟨-, rfl⟩⟩ := step_cases hstep <;> simp [hio]

/-- A run that is over has no line ahead of it. -/
theorem State.Inv.unobstructed_of_done {s : State} (h : s.Inv) (hd : s.phase = .done) : s.Unobstructed := by
  have hinput : s.input = [] := h.input_read (by simp [hd])
  simp [State.Unobstructed, State.pending, hinput, h.done_all hd]

/-- A run that came to its end met no obstruction. -/
theorem RunEnds.start_unobstructed {p : Params} {items : List Item} {t : State} (h : RunEnds p items t) :
    (State.start p items).Unobstructed :=
  h.keeps (P := fun s => s.Unobstructed → (State.start p items).Unobstructed) id
    (fun _ _ hs hstep ht => hs ((step_unobstructed hstep).1 ht)) (h.inv.unobstructed_of_done h.done)

/-- An unobstructed run that is not over makes one of the steps ahead of it. -/
theorem State.Inv.exists_step {s : State} (h : s.Inv) (hio : s.ioAvailable = true) (hfree : s.Unobstructed)
    (hd : s.phase ≠ .done) : ∃ t, step s = .next t ∧ t.stepsAhead + 1 = s.stepsAhead := by
  obtain ⟨hfits, hresults⟩ := hfree
  cases hp : s.phase with
  | pass1 =>
    rw [stepsAhead_pass1 hp]
    cases hi : s.input with
    | nil => exact ⟨_, step_of_no_input hio hp hi, by rw [stepsAhead_pass2 rfl]; simp [State.pending]⟩
    | cons it rest =>
      rw [step_of_item hio hp hi]
      cases hl : itemLabel it with
      | some name =>
        refine ⟨_, readLine_of_label _ hl, ?_⟩
        rw [stepsAhead_pass1 (by simpa using hp), pending_bindLabel hi hl]
        simp +arith
      | none =>
        have hf : addrFits s.cfg.addrW s.addr = true := hfits ⟨s.addr, it⟩ (by simp [hi, assignedFrom_cons_instr _ _ hl])
        refine ⟨_, readLine_of_fits hl hf, ?_⟩
        rw [stepsAhead_pass1 (by simpa using hp), pending_assignAddress hi hl]
        simp +arith
  | pass2 =>
    rw [stepsAhead_pass2 hp]
    cases hc : s.current with
    | none =>
      exact ⟨_, step_of_no_line hio hp hc, by rw [stepsAhead_eq_zero.2 rfl, h.pending_of_no_line (by simp [hp]) hc]; rfl⟩
    | some r =>
      obtain ⟨res, hres⟩ := hresults r (by simp [pending_eq_cons hc (.word 0)])
      refine ⟨_, step_of_result hio hp hc hres, ?_⟩
      rw [stepsAhead_pass2 (by simpa using hp), pending_eq_cons hc res, List.length_cons]
  | done => exact absurd hp hd

/-- An unobstructed run is over after the steps ahead of it. -/
theorem State.Inv.run_stepsAhead {s : State} (h : s.Inv) (hio : s.ioAvailable = true) (hfree : s.Unobstructed) :
    ∃ t, Host.Core.run Sys2Proof.core s.stepsAhead s = .next t ∧ t.phase = .done := by
  induction hn : s.stepsAhead generalizing s with
  | zero => exact ⟨s, rfl, stepsAhead_eq_zero.1 hn⟩
  | succ n ih =>
    have hd : s.phase ≠ .done := fun hd => by simp [stepsAhead_eq_zero.2 hd] at hn
    obtain ⟨s', hstep, hahead⟩ := h.exists_step hio hfree hd
    obtain ⟨t, hrun, hdone⟩ := ih (stepKeepsSoundState _ _ h hstep) (step_keeps_ioAvailable hstep)
      ((step_unobstructed hstep).2 hfree) (by omega)
    exact ⟨t, run_succ_eq_next.2 ⟨s', hstep, hrun⟩, hdone⟩

/-- The two-pass run is over in a state with the results `x` exactly when nothing obstructs it and `x` is its forecast. -/
theorem exists_runEnds_iff {p : Params} {items : List Item} {x : Results} :
    (∃ t, RunEnds p items t ∧ t.results = x) ↔
      (State.start p items).Unobstructed ∧ (State.start p items).forecast = x := by
  constructor
  · rintro ⟨t, h, rfl⟩
    exact ⟨h.start_unobstructed, h.results_eq.symm⟩
  · rintro ⟨hfree, rfl⟩
    obtain ⟨t, hrun, hdone⟩ := (start_inv p items).run_stepsAhead rfl hfree
    have h : RunEnds p items t := ⟨_, hrun, hdone⟩
    exact ⟨t, h, h.results_eq⟩

/-! ## One pass (R188) -/

/-- A state of pass 1 that holds the results `x` with the items still to read: what the one-pass form is to do when it holds
`x`, as a state to forecast from. -/
def Results.before (x : Results) (p : Params) (items : List Item) : State :=
  { State.start p items with addr := x.addr, labels := x.labels, records := x.records, diag := x.diag }

theorem empty_before (p : Params) (items : List Item) : Results.empty.before p items = State.start p items := rfl

/-- The results after an instruction line: its record or DIAG entry, at the address it takes. -/
def Results.withLine (x : Results) (p : Params) (it : Item) : Results :=
  { x with
    addr := x.addr + addrStep
    records := x.records ++ (recordOf p ⟨x.addr, it⟩).toList
    diag := x.diag ++ (diagOf p ⟨x.addr, it⟩).toList }

/-- The results after a label line. -/
def Results.withLabel (x : Results) (name : Text) : Results := { x with labels := x.labels ++ [(name, x.addr)] }

section OnePass
variable {p : Params} {x y : Results} {it : Item} {rest : List Item} {name : Text}

theorem onePassFrom_cons_eq_ok :
    onePassFrom p x (it :: rest) = .ok y ↔ ∃ x', onePassLine p it x = .ok x' ∧ onePassFrom p x' rest = .ok y := by
  simp only [onePassFrom]
  cases onePassLine p it x <;> simp

theorem onePassLine_of_label (hl : itemLabel it = some name) : onePassLine p it x = .ok (x.withLabel name) := by
  simp [onePassLine, hl, Results.withLabel]

theorem onePassLine_eq_ok (hl : itemLabel it = none) :
    onePassLine p it x = .ok y ↔
      (addrFits p.addrW x.addr = true ∧ ∃ res, lineResult p it = .ok res) ∧ x.withLine p it = y := by
  simp only [onePassLine, hl, Results.withLine, recordOf, diagOf]
  cases addrFits p.addrW x.addr with
  | false => simp
  | true => rcases lineResult p it with why | w | e <;> simp

/-- A label line read in one pass is a label line read in pass 1. -/
theorem before_withLabel (x : Results) (p : Params) (it : Item) (rest : List Item) (name : Text) :
    (x.withLabel name).before p rest = bindLabel name { x.before p (it :: rest) with input := rest } := rfl

theorem forecast_before_withLine (hl : itemLabel it = none) :
    ((x.withLine p it).before p rest).forecast = (x.before p (it :: rest)).forecast := by
  simp [State.forecast, State.pending, Results.before, Results.withLine, instructionLines_cons_instr _ hl,
    boundFrom_cons_instr _ _ hl, assignedFrom_cons_instr _ _ hl, List.filterMap_eq_flatMap_toList]
  ring

theorem unobstructed_before {items : List Item} :
    (x.before p items).Unobstructed ↔ (∀ r ∈ assignedFrom x.addr items, addrFits p.addrW r.addr = true) ∧
      ∀ r ∈ assignedFrom x.addr items, ∃ res, lineResult p r.item = .ok res := Iff.rfl

theorem unobstructed_before_cons_instr (hl : itemLabel it = none) :
    (x.before p (it :: rest)).Unobstructed ↔
      (addrFits p.addrW x.addr = true ∧ ∃ res, lineResult p it = .ok res) ∧
        ((x.withLine p it).before p rest).Unobstructed := by
  simp only [unobstructed_before, Results.withLine, assignedFrom_cons_instr _ _ hl, List.forall_mem_cons]
  exact and_and_and_comm

/-- One pass from the results `x` completes exactly when nothing obstructs the items, and with the forecast. -/
theorem onePassFrom_eq_ok {items : List Item} :
    onePassFrom p x items = .ok y ↔ (x.before p items).Unobstructed ∧ (x.before p items).forecast = y := by
  induction items generalizing x with
  | nil => simp [onePassFrom, Results.before, State.Unobstructed, State.forecast, State.pending]
  | cons it rest ih =>
    rw [onePassFrom_cons_eq_ok]
    cases hl : itemLabel it with
    | some name =>
      have hfree := unobstructed_bindLabel (s := x.before p (it :: rest)) rfl hl
      have hforecast := forecast_bindLabel (s := x.before p (it :: rest)) rfl hl
      simp [onePassLine_of_label hl, ih, before_withLabel x p it, hfree, hforecast]
    | none =>
      simp [onePassLine_eq_ok hl, ih, unobstructed_before_cons_instr hl, forecast_before_withLine hl, and_assoc]

end OnePass

/-- Settles O34: either form completes when nothing obstructs the input, with the forecast at its start. -/
theorem onePassEqualsTwoPasses : Obligations.OnePassEqualsTwoPasses := by
  intro p items x
  rw [onePass, onePassFrom_eq_ok, empty_before, exists_runEnds_iff]

/-! ## Addresses count lines (R41, R190) -/

/-- Every step leaves the lines of a run as they are: those retained, and those pass 1 will retain. -/
theorem step_lines {s t : State} (hstep : step s = .next t) :
    t.retained ++ assignedFrom t.addr t.input = s.retained ++ assignedFrom s.addr s.input := by
  obtain ⟨-, ⟨-, -, rfl⟩ | ⟨it, rest, name, -, hi, hl, rfl⟩ | ⟨it, rest, -, hi, hl, -, rfl⟩ |
    ⟨r, res, -, -, -, rfl⟩ | ⟨-, -, rfl⟩ | ⟨-, rfl⟩⟩ := step_cases hstep
  · rfl
  · simp [hi, assignedFrom_cons_label _ _ hl]
  · simp [hi, assignedFrom_cons_instr _ _ hl]
  · simp
  · rfl
  · rfl

theorem RunEnds.retained_eq {p : Params} {items : List Item} {t : State} (h : RunEnds p items t) :
    t.retained = assignedFrom 0 items := by
  have hlines : t.retained ++ assignedFrom t.addr t.input = assignedFrom 0 items :=
    h.keeps (P := fun s => s.retained ++ assignedFrom s.addr s.input = assignedFrom 0 items) rfl
      fun _ _ hs hstep => (step_lines hstep).trans hs
  have hinput : t.input = [] := h.inv.input_read (by simp [h.done])
  simpa [hinput] using hlines

theorem assignedFrom_items (a : Nat) (items : List Item) :
    (assignedFrom a items).map Retained.item = items.filter (fun it => (itemLabel it).isNone) := by
  induction items generalizing a with
  | nil => rfl
  | cons it rest ih =>
    cases hl : itemLabel it with
    | some name => simp [assignedFrom_cons_label _ _ hl, hl, ih]
    | none => simp [assignedFrom_cons_instr _ _ hl, hl, ih]

/-- Two neighbouring results are those of two elements with none but elements without a result between them. -/
theorem filterMap_neighbours {α β : Type} {f : α → Option β} {l : List α} {k : Nat} {a b : β}
    (ha : (l.filterMap f)[k]? = some a) (hb : (l.filterMap f)[k + 1]? = some b) :
    ∃ before x between y after, l = before ++ x :: (between ++ y :: after) ∧ f x = some a ∧
      (∀ z ∈ between, f z = none) ∧ f y = some b := by
  have hsplit : l.filterMap f = (l.filterMap f).take k ++ a :: b :: (l.filterMap f).drop (k + 2) := by
    conv_lhs => rw [← List.take_append_drop k (l.filterMap f), List.drop_eq_getElem?_toList_append, ha,
      List.drop_eq_getElem?_toList_append, hb]
    rfl
  obtain ⟨front, l', rfl, -, htail⟩ := List.filterMap_eq_append_iff.1 hsplit
  obtain ⟨skipped, x, l'', rfl, -, hx, htail⟩ := List.filterMap_eq_cons_iff.1 htail
  obtain ⟨between, y, after, rfl, hnone, hy, -⟩ := List.filterMap_eq_cons_iff.1 htail
  exact ⟨front ++ skipped, x, between, y, after, by simp, hx, hnone, hy⟩

/-- In a list with strictly increasing keys, the elements with keys between those of two elements are the ones that stand
between them. -/
theorem filter_between {α : Type} {key : α → Nat} {before between after : List α} {x y : α}
    (h : (before ++ x :: (between ++ y :: after)).Pairwise (fun a b => key a < key b)) :
    (before ++ x :: (between ++ y :: after)).filter (fun z => decide (key x < key z ∧ key z < key y)) = between := by
  obtain ⟨-, hfromx, hbefore⟩ := List.pairwise_append.1 h
  obtain ⟨hx, hrest⟩ := List.pairwise_cons.1 hfromx
  obtain ⟨-, hfromy, hbetween⟩ := List.pairwise_append.1 hrest
  obtain ⟨hy, -⟩ := List.pairwise_cons.1 hfromy
  rw [List.filter_append, List.filter_cons_of_neg (by simp), List.filter_append, List.filter_cons_of_neg (by simp),
    List.filter_eq_nil_iff.2, List.filter_eq_self.2, List.filter_eq_nil_iff.2, List.nil_append, List.append_nil]
  · intro z hz
    have := hy z hz
    grind
  · exact fun z hz => decide_eq_true ⟨hx z (by simp [hz]), hbetween z hz y (by simp)⟩
  · intro z hz
    have := hbefore z hz x (by simp)
    grind

/-- The DIAG entries at some addresses are those of the lines at these addresses. -/
theorem filter_diag_addr (p : Params) (q : Nat → Bool) (lines : List Retained) :
    (lines.filterMap (diagOf p)).filter (fun d => q d.addr) =
      (lines.filter (fun r => q r.addr)).filterMap (diagOf p) := by
  rw [List.filter_filterMap, List.filterMap_filter]
  refine List.filterMap_congr fun r _ => ?_
  cases hr : diagOf p r with
  | none => simp
  | some d => simp [Option.filter, diagOf_addr hr]

/-- Lines that stand in the slots of their places have strictly increasing addresses. -/
theorem pairwise_of_slots {l : List Retained} (h : ∀ k r, l[k]? = some r → r.addr = addrStep * k) :
    l.Pairwise (fun a b => a.addr < b.addr) := by
  refine List.pairwise_iff_getElem.2 fun i j hi hj hij => ?_
  rw [h i _ (List.getElem?_eq_getElem hi), h j _ (List.getElem?_eq_getElem hj)]
  exact Nat.mul_lt_mul_of_pos_left hij (by decide)

/-- A line inside the contract without a record has a DIAG entry. -/
theorem diagOf_isSome {p : Params} {r : Retained} {res : Result} (hres : lineResult p r.item = .ok res)
    (hnone : recordOf p r = none) : (diagOf p r).isSome = true := by
  cases res with
  | word w => simp [recordOf_of_word hres] at hnone
  | raised e => simp [diagOf_of_raised hres]

/-- Two neighbouring records differ by one slot more than there are DIAG entries between them (R190): the lines between
theirs have no record. -/
theorem RunEnds.records_gap {p : Params} {items : List Item} {t : State} (h : RunEnds p items t) {k : Nat}
    {a b : Record} (ha : t.records[k]? = some a) (hb : t.records[k + 1]? = some b) :
    b.addr = a.addr + 4 * (1 + (t.diag.filter (fun d => decide (a.addr < d.addr ∧ d.addr < b.addr))).length) := by
  rw [h.records_eq] at ha hb
  obtain ⟨before, x, between, y, after, hlines, hx, hnone, hy⟩ := filterMap_neighbours ha hb
  have hslots := h.inv.assigned
  rw [h.retained_eq, hlines] at hslots
  have hxslot : x.addr = addrStep * before.length := hslots _ x (by simp)
  have hyslot : y.addr = addrStep * (before.length + (between.length + 1)) := hslots _ y (by simp)
  have hdiag : t.diag.filter (fun d => decide (x.addr < d.addr ∧ d.addr < y.addr)) = between.filterMap (diagOf p) := by
    rw [h.diag_eq, hlines, filter_diag_addr p (fun n => decide (x.addr < n ∧ n < y.addr)),
      filter_between (pairwise_of_slots hslots)]
  have hcount : (between.filterMap (diagOf p)).length = between.length := by
    refine List.filterMap_length_eq_length.2 fun z hz => ?_
    obtain ⟨res, hres⟩ := h.start_unobstructed.2 z (by simp [State.pending, hlines, hz])
    exact diagOf_isSome hres (hnone z hz)
  rw [recordOf_addr hx, recordOf_addr hy, hdiag, hcount, hxslot, hyslot]
  simp only [addrStep]
  ring

/-- Settles O37: the lines retained are those pass 1 was to retain, in the slots of their places. -/
theorem finalAddressesCountLines : Obligations.FinalAddressesCountLines := by
  intro p items t h
  refine ⟨?_, h.inv.assigned, h.addr_eq, h.inv.records_increase, fun k a b => h.records_gap⟩
  rw [h.retained_eq, assignedFrom_items]

end Sys2Proof.Machine
end

section
/-! Proofs of the statements about errors and their statuses (60_exceptions.md): what an instruction leaves behind, what
makes a step fault, and the source lines the block's own upstream ends with a status. -/

namespace Sys2Proof.Machine

/-! ## Status codes (R210) -/

/-- Settles O59, case by case of the two statuses. -/
theorem statusCodesAreTheirNumbers : Obligations.StatusCodesAreTheirNumbers := by
  refine ⟨rfl, rfl, rfl, rfl, rfl, rfl, fun a b => ?_⟩
  cases a <;> cases b <;> simp [statusCode]

/-! ## What an instruction leaves behind (R184, R210, R224) -/

/-- A line ends with one record or one DIAG entry (R210). -/
theorem finishLine_outputs_length (r : Retained) (res : Result) (s : State) :
    (finishLine r res s).records.length + (finishLine r res s).diag.length = s.records.length + s.diag.length + 1 := by
  cases res with
  | word w => simp [Nat.add_right_comm]
  | raised e => simp [Nat.add_assoc]

/-- Settles O21, by ENCODE's answer on the instruction's command. -/
theorem everyInstructionCompletes : Obligations.EveryInstructionCompletes :=
  fun i _ r hline => ⟨_, exec_of_current i hline, finishLine_cursor .., finishLine_outputs_length r ..⟩

/-- Settles O23: every field but RECORDS and DIAG by its law, and those two by ENCODE's answer. -/
theorem everyInstructionFrame : Obligations.EveryInstructionFrame := by
  intro i s t hexec
  obtain ⟨r, hline, rfl⟩ := exec_eq_next.1 hexec
  refine ⟨finishLine_cfg .., finishLine_phase .., finishLine_input .., finishLine_addr .., finishLine_labels ..,
    finishLine_retained .., finishLine_ioAvailable .., finishLine_cursor .., r, hline, ?_⟩
  cases hres : encodeMux s.cfg.wired (commandOf i) with
  | word w => exact .inl ⟨w, rfl, rfl⟩
  | raised e => exact .inr ⟨e, encodeMux_raised hres, rfl, rfl⟩

/-! ## Faults (R214) -/

theorem readLine_ne_fault (it : Item) (s : State) (f : Fault) : readLine it s ≠ .fault f := by
  unfold readLine
  split
  · nofun
  · split <;> nofun

theorem stepPass1_ne_fault (s : State) (f : Fault) : stepPass1 s ≠ .fault f := by
  unfold stepPass1
  split
  · nofun
  · exact readLine_ne_fault _ _ f

/-- A line under the cursor ends with its result or is refused. -/
theorem encodeLine_ne_fault {s : State} {r : Retained} (hline : s.current = some r) (f : Fault) :
    encodeLine r.item s ≠ .fault f := by
  cases hres : lineResult s.cfg r.item with
  | ok res => rw [encodeLine_of_result hline hres]; nofun
  | error why => rw [encodeLine_of_reject hres]; nofun

theorem stepPass2_ne_fault (s : State) (f : Fault) : stepPass2 s ≠ .fault f := by
  unfold stepPass2
  split
  next r hline => exact encodeLine_ne_fault hline f
  next => nofun

theorem step_of_ioUnavailable {s : State} (hio : s.ioAvailable = false) : step s = .fault .ioUnavailable := by
  simp [step_eq, hio]

/-- No phase of a run faults while input and output are available. -/
theorem step_ne_fault {s : State} (hio : s.ioAvailable = true) (f : Fault) : step s ≠ .fault f := by
  cases hp : s.phase with
  | pass1 => rw [step_of_pass1 hio hp]; exact stepPass1_ne_fault s f
  | pass2 => rw [step_of_pass2 hio hp]; exact stepPass2_ne_fault s f
  | done => rw [step_of_done hio hp]; nofun

/-- Settles O11: no phase is looked at before the host's flag. -/
theorem ioUnavailableAbortsRun : Obligations.IoUnavailableAbortsRun :=
  fun _ hio => ⟨step_of_ioUnavailable hio, rfl⟩

/-- Settles O22: a step that faults has the flag down, and then its fault is the one of the flag. -/
theorem onlyFaultIsIoUnavailable : Obligations.OnlyFaultIsIoUnavailable := by
  refine ⟨fun i _ => exec_of_no_line i, fun s f => ⟨fun hfault => ?_, ?_⟩⟩
  · have hio : s.ioAvailable = false := Bool.eq_false_iff.2 fun hio => step_ne_fault hio f hfault
    rw [step_of_ioUnavailable hio] at hfault
    exact ⟨hio, (Host.Outcome.fault.inj hfault).symm⟩
  · rintro ⟨hio, rfl⟩
    exact step_of_ioUnavailable hio

/-! ## Source lines the block's own upstream ends with a status (R212, R213, R218) -/

theorem classify_eq_none_iff {catalog : List (Text × FixedFields)} {m : Text} :
    classify catalog m = none ↔ ∀ e ∈ catalog, e.1 ≠ m := by
  rw [classify, List.lookup_eq_none_iff]
  exact forall₂_congr fun _ _ => bne_iff_ne.trans ne_comm

section Lines
variable {p : Params} {l m : Text} {args : List Text} (htok : tokens l = m :: args)
include htok

theorem lineResult_of_unclassified (hcat : classify p.catalog m = none) (hfirst : outsideByFirstToken m = none) :
    lineResult p (.text l) = .ok (.raised .unclassified) := by
  simp [lineResult, decodeItem, decodeLine, htok, hcat, hfirst]

theorem lineResult_of_badRegister {f : FixedFields} (hcat : classify p.catalog m = some f) (hwired : f.format ∈ p.wired)
    (hread : readOperands f.format (args.map stripSeparator) = .badRegister) :
    lineResult p (.text l) = .ok (.raised .badRegister) := by
  simp [lineResult, decodeItem, decodeLine, htok, hcat, hwired, hread]

end Lines

/-- Settles O26: the lookup fails before any operand is read. -/
theorem unknownMnemonicIsUnclassified : Obligations.UnknownMnemonicIsUnclassified := by
  intro s a l m args hio hp hline htok hfirst habsent
  exact step_of_result hio hp hline (lineResult_of_unclassified htok (classify_eq_none_iff.2 habsent) hfirst)

section BadRegister
variable {x y z : Text} {v : Int}

/-! Operands in the order of their class, some register among them none of the 32 names (R91). -/

theorem readRegImm_of_badRegister (hz : readInt z = some v) (hx : resolve x = none) (make : Reg → Int → Operands) :
    readRegImm make x z = .badRegister := by
  simp [readRegImm, hz, hx]

theorem readRegRegImm_of_badRegister (hz : readInt z = some v) (hbad : resolve x = none ∨ resolve y = none)
    (make : Reg → Reg → Int → Operands) : readRegRegImm make x y z = .badRegister := by
  obtain hx | hy := hbad
  · simp [readRegRegImm, hz, hx]
  · simp [readRegRegImm, hz, hy]

theorem readOperands_R_of_badRegister (hbad : resolve x = none ∨ resolve y = none ∨ resolve z = none) :
    readOperands .R [x, y, z] = .badRegister := by
  obtain hx | hy | hz := hbad
  · simp [readOperands, hx]
  · simp [readOperands, hy]
  · simp [readOperands, hz]

theorem readOperands_regRegImm_of_badRegister {f : Format} (hf : f = .I ∨ f = .S ∨ f = .SB) (hz : readInt z = some v)
    (hbad : resolve x = none ∨ resolve y = none) : readOperands f [x, y, z] = .badRegister := by
  obtain rfl | rfl | rfl := hf <;> exact readRegRegImm_of_badRegister hz hbad _

theorem readOperands_regImm_of_badRegister {f : Format} (hf : f = .U ∨ f = .UJ) (hz : readInt z = some v)
    (hx : resolve x = none) : readOperands f [x, z] = .badRegister := by
  obtain rfl | rfl := hf <;> exact readRegImm_of_badRegister hz hx _

end BadRegister

/-- Settles O27: in each class's operand form the bad register is what reading the operands ends with. -/
theorem badRegisterLineHasNoRecord : Obligations.BadRegisterLineHasNoRecord := by
  intro s a l m x y z v hio hp hline bad name number
  refine ⟨?_, ?_, ?_⟩
  · intro op f3 f7 htok hcat hwired hbad
    exact step_of_result hio hp hline
      (lineResult_of_badRegister htok hcat hwired (readOperands_R_of_badRegister hbad))
  · intro f htok hcat hwired hf hz hbad
    exact step_of_result hio hp hline
      (lineResult_of_badRegister htok hcat hwired (readOperands_regRegImm_of_badRegister hf hz hbad))
  · intro f htok hcat hwired hf hz hx
    exact step_of_result hio hp hline
      (lineResult_of_badRegister htok hcat hwired (readOperands_regImm_of_badRegister hf hz hx))

end Sys2Proof.Machine
end

section
/-! Proofs of the statements about reset and hazards (70_reset_and_hazards.md): an input inside the contract runs to its
end. -/

namespace Sys2Proof.Machine

/-! ## Inputs inside the contract (R244) -/

/-- An instruction line is inside the contract exactly when it has a result. -/
theorem inContract_iff_exists_result {p : Params} {it : Item} (hl : itemLabel it = none) :
    inContract p it = true ↔ ∃ res, lineResult p it = .ok res := by
  simp only [inContract, lineResult, hl, Option.isSome_none, Bool.false_or]
  cases decodeItem p it <;> simp

theorem assignedFrom_length (a : Nat) (items : List Item) :
    (assignedFrom a items).length = instructionLines items := by
  simpa [instructionLines] using congrArg List.length (assignedFrom_items a items)

/-- The lines pass 1 will retain are the instruction lines of its input. -/
theorem item_mem_of_mem_assignedFrom {a : Nat} {items : List Item} {r : Retained} (hr : r ∈ assignedFrom a items) :
    r.item ∈ items ∧ itemLabel r.item = none := by
  have hitem := List.mem_map_of_mem (f := Retained.item) hr
  rw [assignedFrom_items, List.mem_filter, Option.isNone_iff_eq_none] at hitem
  exact hitem

/-- An unbounded counter has an address for every line, and no line inside the contract is refused. -/
theorem start_unobstructed_of_inContract {p : Params} {items : List Item} (haddr : p.addrW = none)
    (hcontract : ∀ it ∈ items, inContract p it = true) : (State.start p items).Unobstructed := by
  have hfits : ∀ a, addrFits p.addrW a = true := fun a => addrFits_iff.2 (by simp [haddr])
  refine ⟨fun r _ => hfits r.addr, fun r hr => ?_⟩
  have hline : r ∈ assignedFrom 0 items := by simpa [State.pending] using hr
  obtain ⟨hmem, hl⟩ := item_mem_of_mem_assignedFrom hline
  exact (inContract_iff_exists_result hl).1 (hcontract _ hmem)

/-! ## Runs without obstruction (R243) -/

theorem stepsAhead_start (p : Params) (items : List Item) :
    (State.start p items).stepsAhead = items.length + instructionLines items + 2 := by
  rw [stepsAhead_pass1 (start_phase p items)]
  simp [State.pending, assignedFrom_length]

/-- No number of steps stops an unobstructed run: it makes the steps ahead of it, and once over it stays as it is (log 4). -/
theorem State.Inv.safeRun {s : State} (h : s.Inv) (hio : s.ioAvailable = true) (hfree : s.Unobstructed) : SafeRun s := by
  intro k
  induction k generalizing s with
  | zero => exact ⟨s, rfl⟩
  | succ k ih =>
    have hnext : ∃ s', step s = .next s' := by
      by_cases hd : s.phase = .done
      · exact ⟨s, step_of_done hio hd⟩
      · obtain ⟨s', hstep, -⟩ := h.exists_step hio hfree hd
        exact ⟨s', hstep⟩
    obtain ⟨s', hstep⟩ := hnext
    obtain ⟨t, hrun⟩ := ih (stepKeepsSoundState _ _ h hstep) (step_keeps_ioAvailable hstep)
      ((step_unobstructed hstep).2 hfree)
    exact ⟨t, run_succ_eq_next.2 ⟨s', hstep, hrun⟩⟩

/-- Every instruction line of a run that is over has ended with one record or one DIAG entry (R210). -/
theorem RunEnds.outputs_length {p : Params} {items : List Item} {t : State} (h : RunEnds p items t) :
    t.records.length + t.diag.length = instructionLines items := by
  rw [h.inv.handled, h.inv.done_all h.done, h.retained_eq, assignedFrom_length]

/-- Settles O35: nothing obstructs the run, so it is safe and over after the steps ahead of its start. -/
theorem legalInputRunsToTheEnd : Obligations.LegalInputRunsToTheEnd := by
  intro p items haddr hcontract
  have hinv := start_inv p items
  have hfree := start_unobstructed_of_inContract haddr hcontract
  obtain ⟨t, hrun, hdone⟩ := hinv.run_stepsAhead rfl hfree
  have hends : RunEnds p items t := ⟨_, hrun, hdone⟩
  exact ⟨hinv.safeRun rfl hfree, t, stepsAhead_start p items ▸ hrun, hdone, hends.addr_eq, hends.outputs_length⟩

end Sys2Proof.Machine
end
